-- ==== Sys2Proof/Word.lean ====
section
/-! DEFINITION. Bytes, words and doublewords, the operand widths and the size attributes (00_scope.md R6, R9). -/

namespace Sys2Proof

/-- The source's byte, 8 bits (R9). -/
abbrev Byte := BitVec 8

/-- The source's word, 16 bits (R9). -/
abbrev Half := BitVec 16

/-- The source's dword (doubleword), 32 bits (R9). -/
abbrev Dword := BitVec 32

/-- The operand widths of R6: byte, word, dword. -/
inductive Width where
  | byte | word | dword
  deriving DecidableEq, Repr

/-- The width in bytes: the `n` of `MemRead`, `MemWrite` and `IOWrite` (R8). -/
@[reducible] def Width.bytes : Width → Nat
  | .byte => 1
  | .word => 2
  | .dword => 4

/-- The width in bits: the `w` of the rules of 40_or.md. -/
@[reducible] def Width.bits : Width → Nat
  | .byte => 8
  | .word => 16
  | .dword => 32

/-- The values 16 and 32 of OperandSize, AddressSize and `cs_default_size` (R27, R74, R75). -/
inductive Size where
  | s16 | s32
  deriving DecidableEq, Repr

/-- The other of the two sizes: what a 66h or 67h prefix byte selects (R74, R75). -/
def Size.other : Size → Size
  | .s16 => .s32
  | .s32 => .s16

/-- A size attribute: the default, or the other size when its prefix byte is present (R74, R75). -/
def Size.toggled (dflt : Size) (present : Bool) : Size :=
  if present then dflt.other else dflt

end Sys2Proof
end

