-- ==== Sys2Proof/Syntax.lean ====
section
/-! DEFINITION. The instructions: one constructor per row of spec/opcode_table.json, over prefix bytes and r/m operands (30_encoding.md). -/

namespace Sys2Proof

/-- The general register numbers 0 to 7 under their 32-bit names (R10). At width 16 the same number names AX to DI (R11),
at width 8 it names AL, CL, DL, BL, AH, CH, DH, BH (R12). -/
inductive Reg where
  | eax | ecx | edx | ebx | esp | ebp | esi | edi
  deriving DecidableEq, Repr

/-- The six segment registers (R25). -/
inductive SegReg where
  | es | cs | ss | ds | fs | gs
  deriving DecidableEq, Repr

/-- The prefix bytes of one instruction, at most one of each class (R73); the F3h prefix is part of the REP rows instead. -/
structure Prefixes where
  /-- a 66h byte is present (operand size) -/
  opsize : Bool
  /-- a 67h byte is present (address size) -/
  adsize : Bool
  /-- the segment-override byte, if one is present -/
  seg : Option SegReg
  deriving DecidableEq, Repr

/-- The eight register sums of 16-bit addressing (R81), in the order of the `rm` field. -/
inductive Base16 where
  | bxSi | bxDi | bpSi | bpDi | si | di | bp | bx
  deriving DecidableEq, Repr

/-- The displacement of a 16-bit address: mod 00, 01, 10 (R81, R86). -/
inductive Disp16 where
  | none
  | d8 (d : Byte)
  | d16 (d : Half)
  deriving DecidableEq, Repr

/-- The displacement of a 32-bit address: mod 00, 01, 10 (R83, R86). -/
inductive Disp32 where
  | none
  | d8 (d : Byte)
  | d32 (d : Dword)
  deriving DecidableEq, Repr

/-- The index part of a SIB byte (R84): none (index 100b), or a register shifted left by the scale field. -/
inductive Index where
  | none
  | scaled (r : Reg) (scale : BitVec 2)
  deriving DecidableEq, Repr

/-- A memory operand of the ModR/M byte (R81, R83, R84). -/
inductive Addr where
  /-- 16-bit, mod 00, rm 110: disp16 alone -/
  | direct16 (d : Half)
  /-- 16-bit, a register sum and a displacement -/
  | based16 (b : Base16) (d : Disp16)
  /-- 32-bit, mod 00, rm 101: disp32 alone -/
  | direct32 (d : Dword)
  /-- 32-bit, one register and a displacement, no SIB byte -/
  | based32 (r : Reg) (d : Disp32)
  /-- 32-bit, SIB byte with a base register -/
  | sib (base : Reg) (ix : Index) (d : Disp32)
  /-- 32-bit, SIB byte with base 101b under mod 00: no base register, disp32 -/
  | sibNoBase (ix : Index) (d : Dword)
  deriving DecidableEq, Repr

/-- The r/m operand: a register (mod 11, R80) or a memory location. -/
inductive RM where
  | reg (r : Reg)
  | mem (a : Addr)
  deriving DecidableEq, Repr

/-- The instructions, one constructor per row of spec/opcode_table.json (R88). -/
inductive Instr where
  -- OR, ACC_IMM: 0C ib, 0D iw, 0D id
  | orAlImm8 (p : Prefixes) (imm : Byte)
  | orAxImm16 (p : Prefixes) (imm : Half)
  | orEaxImm32 (p : Prefixes) (imm : Dword)
  -- OR, RM_IMM: 80 /1 ib, 81 /1 iw, 81 /1 id, 83 /1 ib twice
  | orRm8Imm8 (p : Prefixes) (rm : RM) (imm : Byte)
  | orRm16Imm16 (p : Prefixes) (rm : RM) (imm : Half)
  | orRm32Imm32 (p : Prefixes) (rm : RM) (imm : Dword)
  | orRm16Imm8 (p : Prefixes) (rm : RM) (imm : Byte)
  | orRm32Imm8 (p : Prefixes) (rm : RM) (imm : Byte)
  -- OR, RM_R: 08 /r, 09 /r twice, 0A /r, 0B /r twice
  | orRm8R8 (p : Prefixes) (rm : RM) (r : Reg)
  | orRm16R16 (p : Prefixes) (rm : RM) (r : Reg)
  | orRm32R32 (p : Prefixes) (rm : RM) (r : Reg)
  | orR8Rm8 (p : Prefixes) (r : Reg) (rm : RM)
  | orR16Rm16 (p : Prefixes) (r : Reg) (rm : RM)
  | orR32Rm32 (p : Prefixes) (r : Reg) (rm : RM)
  -- OUT, PORT_IMM: E6 ib, E7 ib twice
  | outImm8Al (p : Prefixes) (port : Byte)
  | outImm8Ax (p : Prefixes) (port : Byte)
  | outImm8Eax (p : Prefixes) (port : Byte)
  -- OUT, NO_OPERAND: EE, EF twice
  | outDxAl (p : Prefixes)
  | outDxAx (p : Prefixes)
  | outDxEax (p : Prefixes)
  -- OUTS with its operand written (6E, 6F): the decoder's reading when a segment prefix byte is present (log 16)
  | outsDxRm8 (p : Prefixes)
  | outsDxRm16 (p : Prefixes)
  | outsDxRm32 (p : Prefixes)
  -- OUTSB, OUTSW, OUTSD (6E, 6F): the decoder's reading without a segment prefix byte (log 16)
  | outsb (p : Prefixes)
  | outsw (p : Prefixes)
  | outsd (p : Prefixes)
  -- REP OUTS: F3h before 6E, 6F
  | repOutsb (p : Prefixes)
  | repOutsw (p : Prefixes)
  | repOutsd (p : Prefixes)
  deriving DecidableEq, Repr

/-- Why the decoder refuses a byte sequence; none of these is an exception of the hardware (R90, R176). -/
inductive DecodeError where
  /-- F0h, F2h anywhere, F3h before anything but 6E and 6F (R78, D11). Safe. -/
  | prefixNotSpecified
  /-- two prefix bytes of one class (R73, D11). Safe. -/
  | repeatedPrefix
  /-- an opcode byte or `/digit` that the source does not list (R72 steps 3 and 4, R90, D12). Safe. -/
  | opcodeNotInSpec
  /-- SIB index 100b with a scale other than 00b (R84, D22). Safe. -/
  | sibIndexScale
  /-- longer than 15 bytes (R72 step 6, R91, D19); no admitted instruction is. Safe. -/
  | tooLong
  deriving DecidableEq, Repr

end Sys2Proof
end

