-- ==== Sys2Proof/WellFormed.lean ====
section
/-! DEFINITION. Which instruction terms have an encoding under a given `cs_default_size` (30_encoding.md R73 to R86). -/

namespace Sys2Proof

/-- The address size whose table the operand belongs to (R81, R83). -/
def Addr.size : Addr → Size
  | .direct16 _ => .s16
  | .based16 _ _ => .s16
  | .direct32 _ => .s32
  | .based32 _ _ => .s32
  | .sib _ _ _ => .s32
  | .sibNoBase _ _ => .s32

/-- OperandSize under a `cs_default_size` and the prefix bytes (R74). -/
def Prefixes.operandSize (p : Prefixes) (dflt : Size) : Size := dflt.toggled p.opsize

/-- AddressSize under a `cs_default_size` and the prefix bytes (R75). -/
def Prefixes.addressSize (p : Prefixes) (dflt : Size) : Size := dflt.toggled p.adsize

/-- ESP cannot be an index (R84). -/
def Index.wf : Index → Bool
  | .none => true
  | .scaled r _ => r ≠ .esp

/-- The operand has a ModR/M and SIB encoding: BP alone has no mod 00 form (R81), ESP is reached only through a SIB byte,
EBP alone has no mod 00 form with or without SIB (R83, R84). -/
def Addr.wf : Addr → Bool
  | .direct16 _ => true
  | .based16 b d => !(b = .bp && d = .none)
  | .direct32 _ => true
  | .based32 r d => r ≠ .esp && !(r = .ebp && d = .none)
  | .sib base ix d => ix.wf && !(base = .ebp && d = .none)
  | .sibNoBase ix _ => ix.wf

/-- The r/m operand is encodable and its address size is the instruction's (R75, R79). -/
def RM.wf (dflt : Size) (p : Prefixes) : RM → Bool
  | .reg _ => true
  | .mem a => a.wf && a.size = p.addressSize dflt

/-- The instruction has an encoding under `cs_default_size = dflt`: the word and dword forms are selected by OperandSize (R89),
the two spellings of OUTS by the presence of a segment prefix byte (log 16). -/
def Instr.wf (dflt : Size) : Instr → Bool
  | .orAlImm8 _ _ => true
  | .orAxImm16 p _ => p.operandSize dflt = .s16
  | .orEaxImm32 p _ => p.operandSize dflt = .s32
  | .orRm8Imm8 p rm _ => rm.wf dflt p
  | .orRm16Imm16 p rm _ => p.operandSize dflt = .s16 && rm.wf dflt p
  | .orRm32Imm32 p rm _ => p.operandSize dflt = .s32 && rm.wf dflt p
  | .orRm16Imm8 p rm _ => p.operandSize dflt = .s16 && rm.wf dflt p
  | .orRm32Imm8 p rm _ => p.operandSize dflt = .s32 && rm.wf dflt p
  | .orRm8R8 p rm _ => rm.wf dflt p
  | .orRm16R16 p rm _ => p.operandSize dflt = .s16 && rm.wf dflt p
  | .orRm32R32 p rm _ => p.operandSize dflt = .s32 && rm.wf dflt p
  | .orR8Rm8 p _ rm => rm.wf dflt p
  | .orR16Rm16 p _ rm => p.operandSize dflt = .s16 && rm.wf dflt p
  | .orR32Rm32 p _ rm => p.operandSize dflt = .s32 && rm.wf dflt p
  | .outImm8Al _ _ => true
  | .outImm8Ax p _ => p.operandSize dflt = .s16
  | .outImm8Eax p _ => p.operandSize dflt = .s32
  | .outDxAl _ => true
  | .outDxAx p => p.operandSize dflt = .s16
  | .outDxEax p => p.operandSize dflt = .s32
  | .outsDxRm8 p => p.seg.isSome
  | .outsDxRm16 p => p.operandSize dflt = .s16 && p.seg.isSome
  | .outsDxRm32 p => p.operandSize dflt = .s32 && p.seg.isSome
  | .outsb p => p.seg.isNone
  | .outsw p => p.operandSize dflt = .s16 && p.seg.isNone
  | .outsd p => p.operandSize dflt = .s32 && p.seg.isNone
  | .repOutsb _ => true
  | .repOutsw p => p.operandSize dflt = .s16
  | .repOutsd p => p.operandSize dflt = .s32

end Sys2Proof
end

