-- ==== Sys2Proof/Decode.lean ====
section
/-! DEFINITION. The decoder, total on any bytes and rejecting by name, and the encoder (30_encoding.md R70 to R92).
The encoder is the decoder's words read backwards, with the prefix bytes in one fixed order. -/

namespace Sys2Proof

/-- What a parser answers on the bytes it is given: a value and the bytes after it, that it needs further bytes, or a refusal. -/
inductive Parsed (α : Type) where
  | done (a : α) (rest : List Byte)
  | more
  | bad (e : DecodeError)
  deriving DecidableEq, Repr

/-- One parser after another; the first that needs bytes or refuses decides. -/
def Parsed.andThen {α β : Type} (m : Parsed α) (f : α → List Byte → Parsed β) : Parsed β :=
  match m with
  | .done a rest => f a rest
  | .more => .more
  | .bad e => .bad e

/-! Bytes and fields. -/

/-- The next byte: `ib`, a disp8, a ModR/M or a SIB byte (R41, R87). -/
def takeByte : List Byte → Parsed Byte
  | b :: rest => .done b rest
  | [] => .more

/-- The next two bytes, least significant first: `iw`, a disp16 (R41, R86, R87). -/
def takeHalf : List Byte → Parsed Half
  | b0 :: b1 :: rest => .done (b1 ++ b0) rest
  | _ => .more

/-- The next four bytes, least significant first: `id`, a disp32 (R41, R86, R87). -/
def takeDword : List Byte → Parsed Dword
  | b0 :: b1 :: b2 :: b3 :: rest => .done (b3 ++ b2 ++ b1 ++ b0) rest
  | _ => .more

/-- `iw` and disp16 as stored bytes (R41). -/
def halfBytes (v : Half) : List Byte := [v.extractLsb' 0 8, v.extractLsb' 8 8]

/-- `id` and disp32 as stored bytes (R41). -/
def dwordBytes (v : Dword) : List Byte :=
  [v.extractLsb' 0 8, v.extractLsb' 8 8, v.extractLsb' 16 8, v.extractLsb' 24 8]

/-- bits[7:6]: `mod` of a ModR/M byte (R79), `scale` of a SIB byte (R84). -/
def topField (b : Byte) : BitVec 2 := b.extractLsb' 6 2

/-- bits[5:3]: `reg` of a ModR/M byte (R79), `index` of a SIB byte (R84). -/
def midField (b : Byte) : BitVec 3 := b.extractLsb' 3 3

/-- bits[2:0]: `rm` of a ModR/M byte (R79), `base` of a SIB byte (R84). -/
def lowField (b : Byte) : BitVec 3 := b.extractLsb' 0 3

/-- A ModR/M or SIB byte from its three fields (R79, R84). -/
def joinFields (top : BitVec 2) (mid low : BitVec 3) : Byte := top ++ mid ++ low

/-- The register of a register number (R10). -/
def Reg.ofNum (n : BitVec 3) : Reg :=
  match n.toNat with
  | 0 => .eax
  | 1 => .ecx
  | 2 => .edx
  | 3 => .ebx
  | 4 => .esp
  | 5 => .ebp
  | 6 => .esi
  | _ => .edi

/-- The number of a register (R10). -/
def Reg.num : Reg → BitVec 3
  | .eax => 0
  | .ecx => 1
  | .edx => 2
  | .ebx => 3
  | .esp => 4
  | .ebp => 5
  | .esi => 6
  | .edi => 7

/-- The register sum of an `rm` field under 16-bit addressing (R81). -/
def Base16.ofNum (n : BitVec 3) : Base16 :=
  match n.toNat with
  | 0 => .bxSi
  | 1 => .bxDi
  | 2 => .bpSi
  | 3 => .bpDi
  | 4 => .si
  | 5 => .di
  | 6 => .bp
  | _ => .bx

/-- The `rm` field of a register sum (R81). -/
def Base16.num : Base16 → BitVec 3
  | .bxSi => 0
  | .bxDi => 1
  | .bpSi => 2
  | .bpDi => 3
  | .si => 4
  | .di => 5
  | .bp => 6
  | .bx => 7

/-! Prefix bytes (R73, R78). -/

/-- What a prefix byte asks for. -/
inductive PrefixByte where
  | opsize
  | adsize
  | seg (r : SegReg)
  | rep
  /-- LOCK and REPNE (R78) -/
  | refused
  deriving DecidableEq, Repr

/-- The eleven prefix bytes of R72 step 1 and R73. -/
def prefixByteOf (b : Byte) : Option PrefixByte :=
  if b = 0x66 then some .opsize
  else if b = 0x67 then some .adsize
  else if b = 0x26 then some (.seg .es)
  else if b = 0x2E then some (.seg .cs)
  else if b = 0x36 then some (.seg .ss)
  else if b = 0x3E then some (.seg .ds)
  else if b = 0x64 then some (.seg .fs)
  else if b = 0x65 then some (.seg .gs)
  else if b = 0xF3 then some .rep
  else if b = 0xF2 then some .refused
  else if b = 0xF0 then some .refused
  else none

/-- The segment-override byte (R73). -/
def SegReg.prefixByte : SegReg → Byte
  | .es => 0x26
  | .cs => 0x2E
  | .ss => 0x36
  | .ds => 0x3E
  | .fs => 0x64
  | .gs => 0x65

/-- The prefix bytes read so far, and whether F3h is among them. -/
structure Scan where
  p : Prefixes
  rep : Bool
  deriving DecidableEq, Repr

/-- No prefix byte read. -/
def Scan.start : Scan := ⟨⟨false, false, none⟩, false⟩

/-- One more prefix byte: at most one of each class (R73), F0h and F2h refused (R78). -/
def Scan.add (sc : Scan) : PrefixByte → Except DecodeError Scan
  | .opsize => if sc.p.opsize then .error .repeatedPrefix else .ok { sc with p := { sc.p with opsize := true } }
  | .adsize => if sc.p.adsize then .error .repeatedPrefix else .ok { sc with p := { sc.p with adsize := true } }
  | .seg r =>
    match sc.p.seg with
    | some _ => .error .repeatedPrefix
    | none => .ok { sc with p := { sc.p with seg := some r } }
  | .rep => if sc.rep then .error .repeatedPrefix else .ok { sc with rep := true }
  | .refused => .error .prefixNotSpecified

/-- R72 step 1: read prefix bytes in any order, then the opcode byte. -/
def scanPrefixes (sc : Scan) : List Byte → Parsed (Scan × Byte)
  | [] => .more
  | b :: rest =>
    match prefixByteOf b with
    | none => .done (sc, b) rest
    | some k =>
      match sc.add k with
      | .error e => .bad e
      | .ok sc' => scanPrefixes sc' rest

/-! The r/m operand (R79 to R86). -/

/-- 16-bit ModR/M (R81, R86), `mod` and `rm` given, displacement next. -/
def decodeRm16 (mod : BitVec 2) (rm : BitVec 3) (bs : List Byte) : Parsed RM :=
  match mod.toNat with
  | 0 =>
    if rm = 6 then (takeHalf bs).andThen fun d rest => .done (.mem (.direct16 d)) rest
    else .done (.mem (.based16 (Base16.ofNum rm) .none)) bs
  | 1 => (takeByte bs).andThen fun d rest => .done (.mem (.based16 (Base16.ofNum rm) (.d8 d))) rest
  | 2 => (takeHalf bs).andThen fun d rest => .done (.mem (.based16 (Base16.ofNum rm) (.d16 d))) rest
  | _ => .done (.reg (Reg.ofNum rm)) bs

/-- The index part of a SIB byte; index 100b needs scale 00b (R84, D22). -/
def indexOf (scale : BitVec 2) (index : BitVec 3) : Except DecodeError Index :=
  if index = 4 then (if scale = 0 then .ok .none else .error .sibIndexScale)
  else .ok (.scaled (Reg.ofNum index) scale)

/-- The SIB byte's operand, `mod` given, displacement next (R84, R86). -/
def decodeSib (mod : BitVec 2) (sibByte : Byte) (bs : List Byte) : Parsed RM :=
  match indexOf (topField sibByte) (midField sibByte) with
  | .error e => .bad e
  | .ok ix =>
    match mod.toNat with
    | 0 =>
      if lowField sibByte = 5 then (takeDword bs).andThen fun d rest => .done (.mem (.sibNoBase ix d)) rest
      else .done (.mem (.sib (Reg.ofNum (lowField sibByte)) ix .none)) bs
    | 1 => (takeByte bs).andThen fun d rest => .done (.mem (.sib (Reg.ofNum (lowField sibByte)) ix (.d8 d))) rest
    | _ => (takeDword bs).andThen fun d rest => .done (.mem (.sib (Reg.ofNum (lowField sibByte)) ix (.d32 d))) rest

/-- 32-bit ModR/M (R83, R84, R86), `mod` and `rm` given, SIB byte and displacement next. -/
def decodeRm32 (mod : BitVec 2) (rm : BitVec 3) (bs : List Byte) : Parsed RM :=
  if mod = 3 then .done (.reg (Reg.ofNum rm)) bs
  else if rm = 4 then (takeByte bs).andThen fun sibByte rest => decodeSib mod sibByte rest
  else
    match mod.toNat with
    | 0 =>
      if rm = 5 then (takeDword bs).andThen fun d rest => .done (.mem (.direct32 d)) rest
      else .done (.mem (.based32 (Reg.ofNum rm) .none)) bs
    | 1 => (takeByte bs).andThen fun d rest => .done (.mem (.based32 (Reg.ofNum rm) (.d8 d))) rest
    | _ => (takeDword bs).andThen fun d rest => .done (.mem (.based32 (Reg.ofNum rm) (.d32 d))) rest

/-- The ModR/M byte with the SIB byte and displacement it calls for: its `reg` field and its r/m operand (R72 step 4, R79). -/
def decodeModRm (asz : Size) (bs : List Byte) : Parsed (BitVec 3 × RM) :=
  (takeByte bs).andThen fun m rest =>
    (match asz with
      | .s16 => decodeRm16 (topField m) (lowField m) rest
      | .s32 => decodeRm32 (topField m) (lowField m) rest).andThen fun rm rest' => .done (midField m, rm) rest'

/-- A ModR/M operand whose `reg` field must be 001b (`/1`); any other `reg` is refused (R72 step 4, R90). -/
def decodeSlash1 (asz : Size) (bs : List Byte) : Parsed RM :=
  (decodeModRm asz bs).andThen fun x rest => if x.1 = 1 then .done x.2 rest else .bad .opcodeNotInSpec

/-! Opcodes (R72 step 3, R88). -/

/-- The fifteen opcode bytes in scope, by their hexadecimal value. -/
inductive Opcode where
  | op08 | op09 | op0A | op0B | op0C | op0D | op80 | op81 | op83 | opE6 | opE7 | opEE | opEF | op6E | op6F
  deriving DecidableEq, Repr

/-- R72 step 3. -/
def opcodeOf (b : Byte) : Option Opcode :=
  if b = 0x08 then some .op08
  else if b = 0x09 then some .op09
  else if b = 0x0A then some .op0A
  else if b = 0x0B then some .op0B
  else if b = 0x0C then some .op0C
  else if b = 0x0D then some .op0D
  else if b = 0x80 then some .op80
  else if b = 0x81 then some .op81
  else if b = 0x83 then some .op83
  else if b = 0xE6 then some .opE6
  else if b = 0xE7 then some .opE7
  else if b = 0xEE then some .opEE
  else if b = 0xEF then some .opEF
  else if b = 0x6E then some .op6E
  else if b = 0x6F then some .op6F
  else none

/-- The two spellings of OUTS share their bytes (R88): the one with its operand written when a segment byte is present (log 16). -/
def outsSpelling (p : Prefixes) (written plain : Instr) : Instr :=
  if p.seg.isSome then written else plain

/-- What follows an opcode byte that no F3h precedes (R72 steps 4 and 5, R87, R88, R89). -/
def decodeBody (d : Size) (p : Prefixes) (op : Opcode) (bs : List Byte) : Parsed Instr :=
  match op with
  | .op08 => (decodeModRm (p.addressSize d) bs).andThen fun x rest => .done (.orRm8R8 p x.2 (Reg.ofNum x.1)) rest
  | .op09 => (decodeModRm (p.addressSize d) bs).andThen fun x rest =>
      match p.operandSize d with
      | .s16 => .done (.orRm16R16 p x.2 (Reg.ofNum x.1)) rest
      | .s32 => .done (.orRm32R32 p x.2 (Reg.ofNum x.1)) rest
  | .op0A => (decodeModRm (p.addressSize d) bs).andThen fun x rest => .done (.orR8Rm8 p (Reg.ofNum x.1) x.2) rest
  | .op0B => (decodeModRm (p.addressSize d) bs).andThen fun x rest =>
      match p.operandSize d with
      | .s16 => .done (.orR16Rm16 p (Reg.ofNum x.1) x.2) rest
      | .s32 => .done (.orR32Rm32 p (Reg.ofNum x.1) x.2) rest
  | .op0C => (takeByte bs).andThen fun imm rest => .done (.orAlImm8 p imm) rest
  | .op0D =>
      match p.operandSize d with
      | .s16 => (takeHalf bs).andThen fun imm rest => .done (.orAxImm16 p imm) rest
      | .s32 => (takeDword bs).andThen fun imm rest => .done (.orEaxImm32 p imm) rest
  | .op80 => (decodeSlash1 (p.addressSize d) bs).andThen fun rm rest =>
      (takeByte rest).andThen fun imm rest' => .done (.orRm8Imm8 p rm imm) rest'
  | .op81 => (decodeSlash1 (p.addressSize d) bs).andThen fun rm rest =>
      match p.operandSize d with
      | .s16 => (takeHalf rest).andThen fun imm rest' => .done (.orRm16Imm16 p rm imm) rest'
      | .s32 => (takeDword rest).andThen fun imm rest' => .done (.orRm32Imm32 p rm imm) rest'
  | .op83 => (decodeSlash1 (p.addressSize d) bs).andThen fun rm rest =>
      (takeByte rest).andThen fun imm rest' =>
        match p.operandSize d with
        | .s16 => .done (.orRm16Imm8 p rm imm) rest'
        | .s32 => .done (.orRm32Imm8 p rm imm) rest'
  | .opE6 => (takeByte bs).andThen fun port rest => .done (.outImm8Al p port) rest
  | .opE7 => (takeByte bs).andThen fun port rest =>
      match p.operandSize d with
      | .s16 => .done (.outImm8Ax p port) rest
      | .s32 => .done (.outImm8Eax p port) rest
  | .opEE => .done (.outDxAl p) bs
  | .opEF =>
      match p.operandSize d with
      | .s16 => .done (.outDxAx p) bs
      | .s32 => .done (.outDxEax p) bs
  | .op6E => .done (outsSpelling p (.outsDxRm8 p) (.outsb p)) bs
  | .op6F =>
      match p.operandSize d with
      | .s16 => .done (outsSpelling p (.outsDxRm16 p) (.outsw p)) bs
      | .s32 => .done (outsSpelling p (.outsDxRm32 p) (.outsd p)) bs

/-- What follows an opcode byte that F3h precedes: only 6E and 6F (R78, R164). -/
def decodeRepBody (d : Size) (p : Prefixes) (op : Opcode) (bs : List Byte) : Parsed Instr :=
  match op with
  | .op6E => .done (.repOutsb p) bs
  | .op6F =>
      match p.operandSize d with
      | .s16 => .done (.repOutsw p) bs
      | .s32 => .done (.repOutsd p) bs
  | _ => .bad .prefixNotSpecified

/-- The decoder of R72 under `cs_default_size = d`: the instruction at the head of the bytes and the bytes after it. -/
def decode (d : Size) (bs : List Byte) : Parsed Instr :=
  (scanPrefixes .start bs).andThen fun x rest =>
    match opcodeOf x.2 with
    | none => .bad .opcodeNotInSpec
    | some op => if x.1.rep then decodeRepBody d x.1.p op rest else decodeBody d x.1.p op rest

/-! The encoder. -/

/-- The prefix bytes other than F3h, in the order operand size, address size, segment (R73 allows any order). -/
def Prefixes.encode (p : Prefixes) : List Byte :=
  (if p.opsize then [0x66] else []) ++ (if p.adsize then [0x67] else []) ++
    (match p.seg with
      | none => []
      | some r => [r.prefixByte])

/-- The scale and index fields of an index part (R84). -/
def Index.fields : Index → BitVec 2 × BitVec 3
  | .none => (0, 4)
  | .scaled r scale => (scale, r.num)

/-- A SIB byte (R84). -/
def sibByteOf (ix : Index) (base : BitVec 3) : Byte := joinFields ix.fields.1 ix.fields.2 base

/-- ModR/M, SIB and displacement bytes of a memory operand, `reg` field given (R81, R83, R84, R86). -/
def Addr.encode (reg : BitVec 3) : Addr → List Byte
  | .direct16 d => joinFields 0 reg 6 :: halfBytes d
  | .based16 b .none => [joinFields 0 reg b.num]
  | .based16 b (.d8 d) => [joinFields 1 reg b.num, d]
  | .based16 b (.d16 d) => joinFields 2 reg b.num :: halfBytes d
  | .direct32 d => joinFields 0 reg 5 :: dwordBytes d
  | .based32 r .none => [joinFields 0 reg r.num]
  | .based32 r (.d8 d) => [joinFields 1 reg r.num, d]
  | .based32 r (.d32 d) => joinFields 2 reg r.num :: dwordBytes d
  | .sib base ix .none => [joinFields 0 reg 4, sibByteOf ix base.num]
  | .sib base ix (.d8 d) => [joinFields 1 reg 4, sibByteOf ix base.num, d]
  | .sib base ix (.d32 d) => joinFields 2 reg 4 :: sibByteOf ix base.num :: dwordBytes d
  | .sibNoBase ix d => joinFields 0 reg 4 :: sibByteOf ix 5 :: dwordBytes d

/-- ModR/M, SIB and displacement bytes of an r/m operand (R79, R80). -/
def RM.encode (reg : BitVec 3) : RM → List Byte
  | .reg r => [joinFields 3 reg r.num]
  | .mem a => a.encode reg

/-- The instruction's bytes (R71, R88). The two sizes of a row pair share their bytes (R89): what tells them apart is `p.opsize`
against `cs_default_size`, which `Instr.wf` checks. -/
def encode : Instr → List Byte
  | .orAlImm8 p imm => p.encode ++ [0x0C, imm]
  | .orAxImm16 p imm => p.encode ++ 0x0D :: halfBytes imm
  | .orEaxImm32 p imm => p.encode ++ 0x0D :: dwordBytes imm
  | .orRm8Imm8 p rm imm => p.encode ++ 0x80 :: (rm.encode 1 ++ [imm])
  | .orRm16Imm16 p rm imm => p.encode ++ 0x81 :: (rm.encode 1 ++ halfBytes imm)
  | .orRm32Imm32 p rm imm => p.encode ++ 0x81 :: (rm.encode 1 ++ dwordBytes imm)
  | .orRm16Imm8 p rm imm => p.encode ++ 0x83 :: (rm.encode 1 ++ [imm])
  | .orRm32Imm8 p rm imm => p.encode ++ 0x83 :: (rm.encode 1 ++ [imm])
  | .orRm8R8 p rm r => p.encode ++ 0x08 :: rm.encode r.num
  | .orRm16R16 p rm r => p.encode ++ 0x09 :: rm.encode r.num
  | .orRm32R32 p rm r => p.encode ++ 0x09 :: rm.encode r.num
  | .orR8Rm8 p r rm => p.encode ++ 0x0A :: rm.encode r.num
  | .orR16Rm16 p r rm => p.encode ++ 0x0B :: rm.encode r.num
  | .orR32Rm32 p r rm => p.encode ++ 0x0B :: rm.encode r.num
  | .outImm8Al p port => p.encode ++ [0xE6, port]
  | .outImm8Ax p port => p.encode ++ [0xE7, port]
  | .outImm8Eax p port => p.encode ++ [0xE7, port]
  | .outDxAl p => p.encode ++ [0xEE]
  | .outDxAx p => p.encode ++ [0xEF]
  | .outDxEax p => p.encode ++ [0xEF]
  | .outsDxRm8 p => p.encode ++ [0x6E]
  | .outsDxRm16 p => p.encode ++ [0x6F]
  | .outsDxRm32 p => p.encode ++ [0x6F]
  | .outsb p => p.encode ++ [0x6E]
  | .outsw p => p.encode ++ [0x6F]
  | .outsd p => p.encode ++ [0x6F]
  | .repOutsb p => 0xF3 :: (p.encode ++ [0x6E])
  | .repOutsw p => 0xF3 :: (p.encode ++ [0x6F])
  | .repOutsd p => 0xF3 :: (p.encode ++ [0x6F])

/-! Lengths (R15, R71): every prefix, opcode, ModR/M, SIB, displacement and immediate byte counts. -/

/-- How many of the three prefix bytes are present (R76: an ignored one counts too). -/
def Prefixes.len (p : Prefixes) : Nat := p.opsize.toNat + p.adsize.toNat + p.seg.isSome.toNat

/-- The length of a 16-bit address's displacement (R86). -/
def Disp16.len : Disp16 → Nat
  | .none => 0
  | .d8 _ => 1
  | .d16 _ => 2

/-- The length of a 32-bit address's displacement (R86). -/
def Disp32.len : Disp32 → Nat
  | .none => 0
  | .d8 _ => 1
  | .d32 _ => 4

/-- `M` of R71: the bytes of ModR/M, SIB and displacement. -/
def RM.len : RM → Nat
  | .reg _ => 1
  | .mem (.direct16 _) => 3
  | .mem (.based16 _ d) => 1 + d.len
  | .mem (.direct32 _) => 5
  | .mem (.based32 _ d) => 1 + d.len
  | .mem (.sib _ _ d) => 2 + d.len
  | .mem (.sibNoBase _ _) => 6

/-- `len` of R15, by the formats of R71. -/
def Instr.len : Instr → Nat
  | .orAlImm8 p _ => p.len + 2
  | .orAxImm16 p _ => p.len + 3
  | .orEaxImm32 p _ => p.len + 5
  | .orRm8Imm8 p rm _ => p.len + 1 + rm.len + 1
  | .orRm16Imm16 p rm _ => p.len + 1 + rm.len + 2
  | .orRm32Imm32 p rm _ => p.len + 1 + rm.len + 4
  | .orRm16Imm8 p rm _ => p.len + 1 + rm.len + 1
  | .orRm32Imm8 p rm _ => p.len + 1 + rm.len + 1
  | .orRm8R8 p rm _ => p.len + 1 + rm.len
  | .orRm16R16 p rm _ => p.len + 1 + rm.len
  | .orRm32R32 p rm _ => p.len + 1 + rm.len
  | .orR8Rm8 p _ rm => p.len + 1 + rm.len
  | .orR16Rm16 p _ rm => p.len + 1 + rm.len
  | .orR32Rm32 p _ rm => p.len + 1 + rm.len
  | .outImm8Al p _ => p.len + 2
  | .outImm8Ax p _ => p.len + 2
  | .outImm8Eax p _ => p.len + 2
  | .outDxAl p => p.len + 1
  | .outDxAx p => p.len + 1
  | .outDxEax p => p.len + 1
  | .outsDxRm8 p => p.len + 1
  | .outsDxRm16 p => p.len + 1
  | .outsDxRm32 p => p.len + 1
  | .outsb p => p.len + 1
  | .outsw p => p.len + 1
  | .outsd p => p.len + 1
  | .repOutsb p => p.len + 2
  | .repOutsw p => p.len + 2
  | .repOutsd p => p.len + 2

/-! The opcode table's numbering of bits (R88). -/

/-- The opcodes whose table rows are 16-bit numbers `(opcode << 8) | ModR/M` (formats RM_IMM and RM_R, R88). -/
def tableOpcodeIsHigh (b : Byte) : Bool :=
  b = 0x80 || b = 0x81 || b = 0x83 || b = 0x08 || b = 0x09 || b = 0x0A || b = 0x0B

/-- The bytes in memory order of an instruction whose bits are `w` as the table numbers them, filled with zeros to the longest
length. A row of formats RM_IMM and RM_R has its opcode in bits 15:8 and its ModR/M byte in bits 7:0, the other rows have their
opcode in bits 7:0 (R88). `nbits` at most 8 leaves no room for a second byte. Log 17. -/
def tableBytes (nbits w : Nat) : List Byte :=
  let byteAt (k : Nat) : Byte := BitVec.ofNat 8 (w % 2 ^ nbits / 256 ^ k)
  let tail := (List.range 13).map fun k => byteAt (k + 2)
  if 8 < nbits && tableOpcodeIsHigh (byteAt 1) then byteAt 1 :: byteAt 0 :: tail else byteAt 0 :: byteAt 1 :: tail

/-- The instruction the decoder reads from a table word under the `cs_default_size` of reset, 16 (R34; log 17). -/
def decodeTableWord (nbits w : Nat) : Option Instr :=
  match decode .s16 (tableBytes nbits w) with
  | .done i _ => some i
  | .more => none
  | .bad _ => none

end Sys2Proof
end

