-- ==== Sys2Proof/Config.lean ====
section
/-! DEFINITION. What is fixed for the machine, and the free values: constants without a body, of which nothing can be proved. -/

namespace Sys2Proof

/-- `phys_addr_bits` of R6: the width of a physical address. -/
def Config.physAddrBits : Nat := 32

/-- `stepping` of R6, read by no rule; the model uses it only as DL at reset (R34). DESIGN CHOICE, unsafe: log 2. -/
def Config.stepping : Byte := 0

/-- What a byte of physical memory that nothing has written reads as. DESIGN CHOICE, unsafe: log 1 (U13 leaves it without a value). -/
def Config.unlistedByte : Byte := 0

/-- `draw(1)` for AF after an OR (R102, U1), indexed by the draw counter. A free value: log 6. -/
opaque Config.freeAF : Nat → Bool

/-- The unspecified bits 15:3 of a page fault's code (R50, R173), indexed by the draw counter. A free value: log 7. -/
opaque Config.freePfCodeBits : Nat → BitVec 13

end Sys2Proof
end

