-- ==== Sys2Proof/Machine/State.lean ====
section
/-! DEFINITION. The machine's state as plain data, the exceptions, the reasons a step stops, and the state after reset
(10_state.md; 60_exceptions.md R170 to R182). -/

namespace Sys2Proof.Machine

/-- The eight 32-bit general registers (R10); the 16-bit and 8-bit registers are parts of them (R11, R12). -/
structure Regs where
  eax : Dword
  ecx : Dword
  edx : Dword
  ebx : Dword
  esp : Dword
  ebp : Dword
  esi : Dword
  edi : Dword
  deriving DecidableEq, Repr

/-- The fields of EFLAGS under their names in R16. The reserved bits are constants of `Eflags.word` (log 29). -/
structure Eflags where
  CF : Bool
  PF : Bool
  AF : Bool
  ZF : Bool
  SF : Bool
  TF : Bool
  IF : Bool
  DF : Bool
  OF : Bool
  IOPL : BitVec 2
  NT : Bool
  RF : Bool
  VM : Bool
  deriving DecidableEq, Repr

/-- A segment register: the visible selector and the hidden part (R25). -/
structure Segment where
  selector : Half
  base : Dword
  /-- the greatest legal offset -/
  limit : Dword
  /-- the selector was not null when loaded -/
  valid : Bool
  readable : Bool
  writable : Bool
  expandDown : Bool
  /-- the B bit, read only for expand-down segments -/
  big : Bool
  deriving DecidableEq, Repr

/-- The six segment registers (R25). -/
structure Segments where
  es : Segment
  cs : Segment
  ss : Segment
  ds : Segment
  fs : Segment
  gs : Segment
  deriving DecidableEq, Repr

/-- The type of the current task state segment (R28). -/
inductive TssType where
  | tss286 | tss386
  deriving DecidableEq, Repr

/-- The task register TR with its hidden part (R28). -/
structure TaskRegister where
  selector : Half
  base : Dword
  /-- the greatest legal offset -/
  limit : Dword
  type : TssType
  deriving DecidableEq, Repr

/-- The debug registers and test registers the spec names (R22). -/
structure DebugRegs where
  dr0 : Dword
  dr1 : Dword
  dr2 : Dword
  dr3 : Dword
  dr6 : Dword
  dr7 : Dword
  tr6 : Dword
  tr7 : Dword
  deriving DecidableEq, Repr

/-- Physical memory (R32): (address, byte) pairs, addresses rising; `Memory.wf` says the canonical form. -/
abbrev Memory := List Host.Cell

/-- One event `(p, n, v)` of the history of I/O port writes (R31); the value is zero-extended to 32 bits. -/
structure IoEvent where
  port : Half
  width : Width
  value : Dword
  deriving DecidableEq, Repr

/-- The parameter `real_ss_vector` of R6: the vector of a real-mode limit violation through SS (C10). -/
inductive RealSsVector where
  | v13 | v12
  deriving DecidableEq, Repr

/-- The parameter `Deliver` of R6: an exception ends the run (R182, the default), or a real-mode exception is delivered
through the interrupt vector table (R183). Log 8. -/
inductive Deliver where
  | terminal | vectorTable
  deriving DecidableEq, Repr

/-- The bytes of the program being run, at CS offsets `start` to `stop - 1` (R203). -/
structure ProgramRange where
  start : Dword
  stop : Dword
  deriving DecidableEq, Repr

/-- What the spec leaves to the launch state and no instruction changes (R6, R202). -/
structure Launch where
  program : Option ProgramRange
  realSsVector : RealSsVector
  deliver : Deliver
  deriving DecidableEq, Repr

/-- The exceptions the instructions in scope raise (R170). -/
inductive Exc where
  /-- #GP(0), vector 13, error code 0 (R171); also the limit violation in virtual 8086 mode (R175) -/
  | gp0
  /-- #SS(0), vector 12, error code 0 (R172) -/
  | ss0
  /-- #PF(code), vector 14; `lin` is the linear address CR2 receives (R173) -/
  | pf (code : Half) (lin : Dword)
  /-- Interrupt 13 of real-address mode, no error code (R174) -/
  | interrupt13
  /-- the real-mode limit violation through SS when `real_ss_vector` is 12, no error code (C10) -/
  | interrupt12
  deriving DecidableEq, Repr

/-- The state of the machine: the tuple of 10_state.md, the launch parameters, and the counter of free values. -/
structure State where
  regs : Regs
  /-- the offset in CS of the instruction being executed (R14) -/
  eip : Dword
  eflags : Eflags
  cr0 : Dword
  cr2 : Dword
  cr3 : Dword
  /-- the current privilege level (R24) -/
  cpl : BitVec 2
  segs : Segments
  /-- the D bit of CS, `cs_default_size` (R27) -/
  csDefaultSize : Size
  tr : TaskRegister
  debugRegs : DebugRegs
  mem : Memory
  /-- the port writes in program order, oldest first (R31) -/
  io : List IoEvent
  /-- the exceptions a run has delivered to a handler, oldest first: the fault record of R202, which rules out a final state (R203) -/
  delivered : List Exc
  launch : Launch
  /-- how many values `draw(N)` of R8 have been taken: the model's own field (log 6) -/
  draws : Nat
  deriving DecidableEq, Repr

/-- Why a step stops with a fault. -/
inductive Fault where
  /-- `Fault(vector, error_code, cr2)` of R182, raised through `takeException` by every memory operand, I/O permission check
  and fetch; it carries the state of R181 (`CR2` written for #PF). Safe: the run ends where the hardware goes on into a
  handler that the spec leaves out (00_scope.md R5 c). -/
  | exception (e : Exc) (s : State)
  /-- The exception `during` arose while `takeException` delivered `e` in real-address mode under `Deliver.vectorTable` (R184: the
  hardware escalates). `s` is the state at which `e` was raised. Safe. -/
  | deliveryFailed (e during : Exc) (s : State)
  deriving DecidableEq, Repr

/-- Why a step has no meaning: the spec refuses the byte sequence or the situation (`refuse` of R8). -/
inductive Refusal where
  /-- An instruction whose arm of `exec` has no meaning. Safe. -/
  | notModelled (mnemonic : String)
  /-- The decoder refuses the bytes at CS:EIP; raised by `fetch` (R72, R78, R84, R90, R91). Safe. -/
  | undecodable (why : DecodeError)
  /-- The instruction's bytes, or EIP after it, pass offset FFFFFFFFh; raised by `fetchByte` and `advance` (R15, D20). Safe. -/
  | eipPastTop
  /-- `IOWrite(p, n, v)` with `p + n > 65536`; raised by `ioWrite` (R31, D9). Safe. -/
  | portPastTop
  /-- An OR stores into program bytes not yet executed; raised by `storeRefusal` (R208, D15). Safe. -/
  | storeIntoProgram
  /-- An OR stores into the page directory or a page table in use; raised by `storeRefusal` (R50, D18). Safe. -/
  | storeIntoPageTable
  /-- An OR stores into the current TSS; raised by `storeRefusal` (D18). Safe. -/
  | storeIntoTss
  /-- PE = 0 with VM = 1, which a launch state may not hold; raised by `launchRefusal` (R23). Safe. -/
  | illegalMode
  /-- TF = 1, which a launch state may not hold; raised by `launchRefusal` (R20, D17). Safe. -/
  | singleStep
  /-- A breakpoint of DR7 is enabled, which a launch state may not hold; raised by `launchRefusal` (R22, D17). Safe. -/
  | breakpoints
  deriving DecidableEq, Repr

/-- ES, SS, DS, FS and GS after reset (R34): selector 0, base 0, limit FFFFh, readable, writable, expand-up.
`valid` and `big` are DESIGN CHOICE (log 4). -/
def Segment.resetData : Segment :=
  { selector := 0, base := 0, limit := 0xFFFF, valid := true, readable := true, writable := true,
    expandDown := false, big := false }

/-- CS after reset (R34): selector F000h, base FFFF0000h, limit FFFFh, readable, writable, 16-bit. -/
def Segment.resetCode : Segment :=
  { Segment.resetData with selector := 0xF000, base := 0xFFFF0000 }

/-- The machine right after reset: the table of R34 (R200). What R34 leaves unspecified is named in logs 1 to 4. -/
def State.reset : State where
  regs :=
    { eax := 0, ecx := 0, edx := (0 : Half) ++ ((0x03 : Byte) ++ Config.stepping), ebx := 0,
      esp := 0, ebp := 0, esi := 0, edi := 0 }
  eip := 0x0000FFF0
  eflags :=
    { CF := false, PF := false, AF := false, ZF := false, SF := false, TF := false, IF := false, DF := false,
      OF := false, IOPL := 0, NT := false, RF := false, VM := false }
  cr0 := 0
  cr2 := 0
  cr3 := 0
  cpl := 0
  segs :=
    { es := .resetData, cs := .resetCode, ss := .resetData, ds := .resetData, fs := .resetData, gs := .resetData }
  csDefaultSize := .s16
  tr := { selector := 0, base := 0, limit := 0, type := .tss286 }
  debugRegs := { dr0 := 0, dr1 := 0, dr2 := 0, dr3 := 0, dr6 := 0, dr7 := 0, tr6 := 0, tr7 := 0 }
  mem := []
  io := []
  delivered := []
  launch := { program := none, realSsVector := .v13, deliver := .terminal }
  draws := 0

end Sys2Proof.Machine
end

