-- ==== Sys2Proof/Machine/Ops.lean ====
section
/-! DEFINITION. The named operations: registers, flags word, modes, physical memory, segmentation, paging, the read and write
primitives, the I/O space, the advance of EIP, taking an exception, fetching. Every read and write of the state goes through these. -/

namespace Sys2Proof.Machine

/-! Operations that can stop. -/

/-- What an operation answers: a value and the state after it, an exception raised, or a refusal. -/
inductive Access (α : Type) where
  | ok (a : α) (s : State)
  | raised (e : Exc)
  | refused (r : Refusal)
  deriving DecidableEq, Repr

/-- One operation after another; the first that stops decides. -/
def Access.andThen {α β : Type} (m : Access α) (f : α → State → Access β) : Access β :=
  match m with
  | .ok a s => f a s
  | .raised e => .raised e
  | .refused r => .refused r

/-- A check that changes no state, as an operation at `s`. -/
def Access.check {α : Type} (c : Except Exc α) (s : State) : Access α :=
  match c with
  | .ok a => .ok a s
  | .error e => .raised e

/-! General registers (R10 to R13). -/

/-- `x32[i]` (R10). -/
def Regs.get32 (x : Regs) : Reg → Dword
  | .eax => x.eax
  | .ecx => x.ecx
  | .edx => x.edx
  | .ebx => x.ebx
  | .esp => x.esp
  | .ebp => x.ebp
  | .esi => x.esi
  | .edi => x.edi

/-- `x32[i] <- v` (R10). -/
def Regs.set32 (x : Regs) (i : Reg) (v : Dword) : Regs :=
  match i with
  | .eax => { x with eax := v }
  | .ecx => { x with ecx := v }
  | .edx => { x with edx := v }
  | .ebx => { x with ebx := v }
  | .esp => { x with esp := v }
  | .ebp => { x with ebp := v }
  | .esi => { x with esi := v }
  | .edi => { x with edi := v }

/-- `x16[i]`: bits 15:0 of `x32[i]` (R11). -/
def Regs.get16 (x : Regs) (i : Reg) : Half := (x.get32 i).extractLsb' 0 16

/-- `x16[i] <- v`: bits 31:16 stay (R13). -/
def Regs.set16 (x : Regs) (i : Reg) (v : Half) : Regs :=
  x.set32 i ((x.get32 i).extractLsb' 16 16 ++ v)

/-- The 32-bit register an 8-bit register is part of (R12). -/
def byteRegHome : Reg → Reg
  | .eax | .esp => .eax
  | .ecx | .ebp => .ecx
  | .edx | .esi => .edx
  | .ebx | .edi => .ebx

/-- Whether a register number names bits 15:8 (AH, CH, DH, BH) at width 8 (R12). -/
def byteRegIsHigh : Reg → Bool
  | .eax | .ecx | .edx | .ebx => false
  | .esp | .ebp | .esi | .edi => true

/-- `x8[i]` (R12). -/
def Regs.get8 (x : Regs) (i : Reg) : Byte :=
  if byteRegIsHigh i then (x.get32 (byteRegHome i)).extractLsb' 8 8 else (x.get32 (byteRegHome i)).extractLsb' 0 8

/-- `x8[i] <- v`: the other 24 bits stay (R13). -/
def Regs.set8 (x : Regs) (i : Reg) (v : Byte) : Regs :=
  let old := x.get32 (byteRegHome i)
  x.set32 (byteRegHome i)
    (if byteRegIsHigh i then old.extractLsb' 16 16 ++ (v ++ old.extractLsb' 0 8) else old.extractLsb' 8 24 ++ v)

/-- `xw[i]` (R8). -/
def State.getReg (s : State) (w : Width) (i : Reg) : BitVec w.bits :=
  match w with
  | .byte => s.regs.get8 i
  | .word => s.regs.get16 i
  | .dword => s.regs.get32 i

/-- `xw[i] <- v` (R8). -/
def State.setReg (s : State) (w : Width) (i : Reg) (v : BitVec w.bits) : State :=
  match w with
  | .byte => { s with regs := s.regs.set8 i v }
  | .word => { s with regs := s.regs.set16 i v }
  | .dword => { s with regs := s.regs.set32 i v }

/-- A register at the width of a size attribute: SI or ESI (R151), CX or ECX (R164), zero-extended to 32 bits. -/
def State.getSized (s : State) (z : Size) (i : Reg) : Dword :=
  match z with
  | .s16 => (s.getReg .word i).setWidth 32
  | .s32 => s.getReg .dword i

/-- Add to a register at the width of a size attribute, modulo 2^16 with the upper half kept or modulo 2^32 (R155 step 8, R164). -/
def State.addSized (s : State) (z : Size) (i : Reg) (k : Dword) : State :=
  match z with
  | .s16 => s.setReg .word i (s.getReg .word i + k.setWidth 16)
  | .s32 => s.setReg .dword i (s.getReg .dword i + k)

/-! EFLAGS as a word, control bits, mode (R16, R21, R23, R27). -/

/-- EFLAGS as a 32-bit word with the layout of R16: bit 1 is 1, bits 3, 5, 15 and 31:18 are 0. -/
def Eflags.word (f : Eflags) : Dword :=
  (0 : BitVec 14) ++ BitVec.ofBool f.VM ++ BitVec.ofBool f.RF ++ (0 : BitVec 1) ++ BitVec.ofBool f.NT ++ f.IOPL ++
    BitVec.ofBool f.OF ++ BitVec.ofBool f.DF ++ BitVec.ofBool f.IF ++ BitVec.ofBool f.TF ++ BitVec.ofBool f.SF ++
    BitVec.ofBool f.ZF ++ (0 : BitVec 1) ++ BitVec.ofBool f.AF ++ (0 : BitVec 1) ++ BitVec.ofBool f.PF ++
    (1 : BitVec 1) ++ BitVec.ofBool f.CF

/-- FLAGS: the low 16 bits of EFLAGS (R16). -/
def Eflags.flags16 (f : Eflags) : Half := f.word.extractLsb' 0 16

/-- CR0.PE, bit 0 (R21). -/
def State.pe (s : State) : Bool := s.cr0.getLsbD 0

/-- CR0.PG, bit 31 (R21). -/
def State.pg (s : State) : Bool := s.cr0.getLsbD 31

/-- The three operating modes (R23). -/
inductive Mode where
  | real | prot | v86
  deriving DecidableEq, Repr

/-- The mode, decided by PE and VM (R23). -/
def State.mode (s : State) : Mode :=
  if s.pe then (if s.eflags.VM then .v86 else .prot) else .real

/-- `cs_default_size` as the decoder reads it: 16 in real-address and virtual 8086 mode (R27, R92; log 26). -/
def State.defaultSize (s : State) : Size :=
  match s.mode with
  | .prot => s.csDefaultSize
  | .real | .v86 => .s16

/-- Whether addresses are translated: PG, which cannot be on in real-address mode (R49, R173; log 11). -/
def State.paging (s : State) : Bool := s.pe && s.pg

/-- The `user` of `PageTranslate`: CPL = 3 (R49). -/
def State.user (s : State) : Bool := s.cpl = 3

/-! Segment registers (R25). -/

/-- A segment register by name. -/
def Segments.get (x : Segments) : SegReg → Segment
  | .es => x.es
  | .cs => x.cs
  | .ss => x.ss
  | .ds => x.ds
  | .fs => x.fs
  | .gs => x.gs

/-! Physical memory (R32, R40). -/

/-- The byte at a physical address; an unlisted one reads as `Config.unlistedByte` (log 1). -/
def Memory.read (m : Memory) (a : Nat) : Byte :=
  match m with
  | [] => Config.unlistedByte
  | (k, b) :: rest => if k = a then b else Memory.read rest a

/-- The entries at other addresses. -/
def Memory.erase (m : Memory) (a : Nat) : Memory := m.filter fun c => c.1 ≠ a

/-- Put an entry before the first greater address. -/
def Memory.insert (m : Memory) (a : Nat) (b : Byte) : Memory :=
  match m with
  | [] => [(a, b)]
  | (k, c) :: rest => if a < k then (a, b) :: (k, c) :: rest else (k, c) :: Memory.insert rest a b

/-- Write one byte, keeping the canonical form: the value an unlisted byte reads as is not listed. -/
def Memory.write (m : Memory) (a : Nat) (b : Byte) : Memory :=
  if b = Config.unlistedByte then m.erase a else (m.erase a).insert a b

/-- Every address of the list is greater than `a`, and rising. -/
def Memory.risingFrom (a : Nat) : Memory → Bool
  | [] => true
  | (k, _) :: rest => a < k && Memory.risingFrom k rest

/-- The addresses rise strictly. -/
def Memory.rising : Memory → Bool
  | [] => true
  | (k, _) :: rest => Memory.risingFrom k rest

/-- The canonical form: addresses strictly rising and inside the physical address space (R32), no entry equal to what an
unlisted byte reads as. -/
def Memory.wf (m : Memory) : Bool :=
  Memory.rising m && m.all fun c => c.2 ≠ Config.unlistedByte && c.1 < 2 ^ Config.physAddrBits

/-- The byte at a physical address. -/
def State.readPhys (s : State) (pa : Dword) : Byte := Memory.read s.mem pa.toNat

/-- Write the byte at a physical address. -/
def State.writePhys (s : State) (pa : Dword) (b : Byte) : State := { s with mem := Memory.write s.mem pa.toNat b }

/-- The bytes of a value in little-endian order, least significant first (R40). -/
def leBytes {k : Nat} (v : BitVec k) (n : Nat) : List Byte := (List.range n).map fun i => v.extractLsb' (8 * i) 8

/-- The number that bytes in little-endian order stand for (R40). -/
def leNat : List Byte → Nat
  | [] => 0
  | b :: rest => b.toNat + 256 * leNat rest

/-- The bytes at a list of physical addresses, as one little-endian value (R40, R51). -/
def State.readAt (s : State) (w : Width) (pas : List Dword) : BitVec w.bits :=
  BitVec.ofNat w.bits (leNat (pas.map s.readPhys))

/-- Store bytes at physical addresses, the first at the first (R52). -/
def State.writeAt (s : State) : List Dword → List Byte → State
  | pa :: pas, b :: bs => State.writeAt (s.writePhys pa b) pas bs
  | _, _ => s

/-- `PhysRead32` of R50. -/
def State.physRead32 (s : State) (a : Dword) : Dword := s.readAt .dword [a, a + 1, a + 2, a + 3]

/-- Set bits of the byte at a physical address (the A and D bits of R50). -/
def State.markPhys (s : State) (pa : Dword) (bits : Byte) : State := s.writePhys pa (s.readPhys pa ||| bits)

/-! Segment check (R46 to R48). -/

/-- `kind` of R46 and R49; `fetch` is the read of R54, for which CS need only be valid. -/
inductive AccessKind where
  | read | write | fetch
  deriving DecidableEq, Repr

/-- The exception of a limit violation outside protected mode (R47, R174, R175, C10). -/
def State.limitExc (s : State) (seg : SegReg) : Exc :=
  let viaSs12 := seg = .ss && s.launch.realSsVector = .v12
  match s.mode with
  | .real => if viaSs12 then .interrupt12 else .interrupt13
  | .v86 | .prot => if viaSs12 then .ss0 else .gp0

/-- `SegCheck` in real-address and virtual 8086 mode (R47). The base is the hidden one (log 25). -/
def State.segCheckReal (s : State) (seg : SegReg) (off : Dword) (n : Nat) : Except Exc Dword :=
  if off.toNat + n - 1 > 0xFFFF then .error (s.limitExc seg) else .ok ((s.segs.get seg).base + off)

/-- Whether a byte range lies outside a protected-mode segment's legal offsets (R48). -/
def Segment.violates (g : Segment) (off : Dword) (n : Nat) : Bool :=
  let last := off.toNat + n - 1
  if g.expandDown then
    let top := if g.big then 0xFFFFFFFF else 0xFFFF
    off.toNat ≤ g.limit.toNat || top < last
  else g.limit.toNat < last

/-- `SegCheck` in protected mode: null selector, rights, then limit (R48); a fetch makes no readability test (R54). -/
def State.segCheckProt (s : State) (seg : SegReg) (off : Dword) (n : Nat) (kind : AccessKind) : Except Exc Dword :=
  let g := s.segs.get seg
  if !g.valid then .error .gp0
  else if kind = .write && !g.writable then .error .gp0
  else if kind = .read && !g.readable then .error .gp0
  else if g.violates off n then .error (if seg = .ss then .ss0 else .gp0)
  else .ok (g.base + off)

/-- `SegCheck(seg, off, n, kind)` (R46): the linear address of the first byte, or the exception. -/
def State.segCheck (s : State) (seg : SegReg) (off : Dword) (n : Nat) (kind : AccessKind) : Except Exc Dword :=
  match s.mode with
  | .prot => s.segCheckProt seg off n kind
  | .real | .v86 => s.segCheckReal seg off n

/-! Page translation (R49, R50). -/

/-- The page-directory entry's address (R50). -/
def State.pdeAddr (s : State) (lin : Dword) : Dword := (s.cr3 &&& 0xFFFFF000) + (lin >>> 22) <<< 2

/-- The page-table entry's address under a page-directory entry (R50). -/
def pteAddr (pde lin : Dword) : Dword := (pde &&& 0xFFFFF000) + ((lin >>> 12) &&& 0x3FF) <<< 2

/-- The page fault of R50: code bit 0 present, bit 1 write, bit 2 user, bits 15:3 free (log 7). -/
def State.pageFault (s : State) (present : Bool) (kind : AccessKind) (user : Bool) (lin : Dword) : Exc :=
  .pf (Config.freePfCodeBits s.draws ++ BitVec.ofBool user ++ BitVec.ofBool (kind = .write) ++ BitVec.ofBool present) lin

/-- The page-level protection test of R50: a supervisor access passes every present page. -/
def pageDenied (kind : AccessKind) (user : Bool) (pde pte : Dword) : Bool :=
  user && (!(pde.getLsbD 2 && pte.getLsbD 2) || (kind = .write && !(pde.getLsbD 1 && pte.getLsbD 1)))

/-- `PageTranslate(lin, kind, user)` (R49, R50): the physical address of one byte, with the A and D bits set in memory. -/
def State.pageTranslate (s : State) (lin : Dword) (kind : AccessKind) (user : Bool) : Access Dword :=
  if !s.paging then .ok lin s
  else
    let pdeA := s.pdeAddr lin
    let pde := s.physRead32 pdeA
    if !pde.getLsbD 0 then .raised (s.pageFault false kind user lin)
    else
      let pteA := pteAddr pde lin
      let pte := s.physRead32 pteA
      if !pte.getLsbD 0 then .raised (s.pageFault false kind user lin)
      else if pageDenied kind user pde pte then .raised (s.pageFault true kind user lin)
      else
        .ok ((pte &&& 0xFFFFF000) ||| (lin &&& 0xFFF))
          ((s.markPhys pdeA 0x20).markPhys pteA (if kind = .write then 0x60 else 0x20))

/-- `PageTranslate` of `n` bytes in increasing linear address order (R51). -/
def State.translateAll (s : State) (lin : Dword) (kind : AccessKind) (user : Bool) : Nat → Access (List Dword)
  | 0 => .ok [] s
  | n + 1 =>
    (s.pageTranslate lin kind user).andThen fun pa s1 =>
      (State.translateAll s1 (lin + 1) kind user n).andThen fun pas s2 => .ok (pa :: pas) s2

/-- The frame a present page is mapped to, without rights tests and without marking: used only to find where a store lands. -/
def State.peekFrame (s : State) (lin : Dword) : Option Dword :=
  let pde := s.physRead32 (s.pdeAddr lin)
  let pte := s.physRead32 (pteAddr pde lin)
  if pde.getLsbD 0 && pte.getLsbD 0 then some (pte &&& 0xFFFFF000) else none

/-! The read and write primitives (R51 to R53). -/

/-- The physical addresses of an operand: the segment check of the whole operand, then every byte's translation (R51, R52, R53). -/
def State.openOperand (s : State) (seg : SegReg) (off : Dword) (w : Width) (kind : AccessKind) : Access (List Dword) :=
  (Access.check (s.segCheck seg off w.bytes kind) s).andThen fun lin s1 =>
    s1.translateAll lin kind s1.user w.bytes

/-- `MemRead(seg, off, n)` (R51). -/
def State.memRead (s : State) (seg : SegReg) (off : Dword) (w : Width) : Access (BitVec w.bits) :=
  (s.openOperand seg off w .read).andThen fun pas s1 => .ok (s1.readAt w pas) s1

/-- `MemWrite(seg, off, n, v)` (R52): every check of every byte before the first store. -/
def State.memWrite (s : State) (seg : SegReg) (off : Dword) (w : Width) (v : BitVec w.bits) : Access Unit :=
  (s.openOperand seg off w .write).andThen fun pas s1 => .ok () (s1.writeAt pas (leBytes v w.bytes))

/-! Stores the spec refuses (R58, R208, D15, D18; logs 14, 15). -/

/-- Whether a physical address is the image of one of the `count` linear addresses from `lin` on. -/
def State.imageOf (s : State) (lin : Dword) (count : Nat) (pa : Dword) : Bool :=
  if !s.paging then (pa - lin).toNat < count
  else
    (List.range (count / 4096 + 2)).any fun k =>
      let page := (lin &&& 0xFFFFF000) + BitVec.ofNat 32 (4096 * k)
      s.peekFrame page = some (pa &&& 0xFFFFF000) && ((page ||| (pa &&& 0xFFF)) - lin).toNat < count

/-- The byte belongs to the program at a CS offset at or beyond the end of the storing instruction and before `end` (R208). The offsets
are taken from the CS base of the moment, so from the handler's after a delivery (DESIGN CHOICE, log 34). -/
def State.inProgramAhead (s : State) (len : Nat) (pa : Dword) : Bool :=
  match s.launch.program with
  | none => false
  | some pr =>
    let next := s.eip.toNat + len
    let first := max next pr.start.toNat
    s.imageOf ((s.segs.get .cs).base + BitVec.ofNat 32 first) (pr.stop.toNat - first) pa

/-- The byte belongs to the page directory, or to a page table it names, while paging is on (R50). -/
def State.inPageTables (s : State) (pa : Dword) : Bool :=
  let frame := pa &&& 0xFFFFF000
  s.paging &&
    (frame = s.cr3 &&& 0xFFFFF000 ||
      (List.range 1024).any fun k =>
        let pde := s.physRead32 ((s.cr3 &&& 0xFFFFF000) + BitVec.ofNat 32 (4 * k))
        pde.getLsbD 0 && frame = pde &&& 0xFFFFF000)

/-- The byte belongs to the current TSS: TR is loaded and PE = 1 (R28). -/
def State.inTss (s : State) (pa : Dword) : Bool :=
  s.pe && s.tr.selector ≠ 0 && s.imageOf s.tr.base (s.tr.limit.toNat + 1) pa

/-- Why the store of an OR of length `len` into these bytes is refused, if it is (R208, D18). -/
def State.storeRefusal (s : State) (len : Nat) (pas : List Dword) : Option Refusal :=
  if pas.any (s.inProgramAhead len) then some .storeIntoProgram
  else if pas.any s.inPageTables then some .storeIntoPageTable
  else if pas.any s.inTss then some .storeIntoTss
  else none

/-- The read-modify-write of R53: segment and page checks as a write, then the read, `f`, the store. Answers the stored value. -/
def State.memUpdate (s : State) (seg : SegReg) (off : Dword) (w : Width) (len : Nat)
    (f : BitVec w.bits → BitVec w.bits) : Access (BitVec w.bits) :=
  (s.openOperand seg off w .write).andThen fun pas s1 =>
    match s1.storeRefusal len pas with
    | some r => .refused r
    | none => .ok (f (s1.readAt w pas)) (s1.writeAt pas (leBytes (f (s1.readAt w pas)) w.bytes))

/-! The I/O address space and the I/O permission bits (R29 to R31, R132). -/

/-- The 16-bit little-endian value at a linear address, read with supervisor privilege (R30). A page fault of this read has code bit 2
clear even at CPL 3, as R30 with R50 give it and against R173 (DESIGN CHOICE, log 33). -/
def State.readLinear16 (s : State) (lin : Dword) : Access Half :=
  (s.translateAll lin .read false 2).andThen fun pas s1 => .ok (s1.readAt .word pas) s1

/-- `mask` of R30: the bits of ports `p` to `p + n - 1` in the two bytes from byte `p >> 3` on. -/
def ioMask (port : Half) (n : Nat) : Half := BitVec.ofNat 16 ((2 ^ n - 1) * 2 ^ (port.toNat % 8))

/-- `IOPermission(port, n)` with the TSS lookup of R30. The sum `iobase + (p >> 3)` is exact and does not wrap at 16 bits (DESIGN
CHOICE, log 32). -/
def State.ioPermission (s : State) (port : Half) (n : Nat) : Access Bool :=
  match s.tr.type with
  | .tss286 => .ok false s
  | .tss386 =>
    (s.readLinear16 (s.tr.base + 0x66)).andThen fun iobase s1 =>
      let k := iobase.toNat + port.toNat / 8
      if k + 1 > s1.tr.limit.toNat then .ok false s1
      else
        (s1.readLinear16 (s1.tr.base + BitVec.ofNat 32 k)).andThen fun bits s2 =>
          .ok (bits &&& ioMask port n = 0) s2

/-- Whether OUT and OUTS consult the permission bits (R132). -/
def State.ioConsults (s : State) : Bool := s.pe && (s.eflags.VM || s.eflags.IOPL < s.cpl)

/-- The privilege check of OUT and OUTS (R132, R154). -/
def State.ioCheck (s : State) (port : Half) (n : Nat) : Access Unit :=
  if s.ioConsults then
    (s.ioPermission port n).andThen fun permitted s1 => if permitted then .ok () s1 else .raised .gp0
  else .ok () s

/-- `IOWrite(port, n, v)`: one more event at the end of the history (R31); past port 65535 it is refused (D9). -/
def State.ioWrite (s : State) (port : Half) (w : Width) (v : BitVec w.bits) : Access Unit :=
  if port.toNat + w.bytes > 65536 then .refused .portPastTop
  else .ok () { s with io := s.io ++ [⟨port, w, v.setWidth 32⟩] }

/-- The byte ports an event writes: least significant byte at the lowest port (R31). -/
def IoEvent.bytes (e : IoEvent) : List (Nat × Byte) :=
  (List.range e.width.bytes).map fun j => (e.port.toNat + j, e.value.extractLsb' (8 * j) 8)

/-! EIP (R15). -/

/-- `pc <- pc + len`, refused when the sum reaches 2^32 (R15, D20). -/
def State.advance (s : State) (len : Nat) : Access Unit :=
  if s.eip.toNat + len ≥ 2 ^ 32 then .refused .eipPastTop
  else .ok () { s with eip := s.eip + BitVec.ofNat 32 len }

/-! Exceptions (R170 to R183). -/

/-- The vector of an exception (R170). -/
def Exc.vector : Exc → Nat
  | .gp0 => 13
  | .ss0 => 12
  | .pf _ _ => 14
  | .interrupt13 => 13
  | .interrupt12 => 12

/-- The error code of an exception, if it has one (R170). -/
def Exc.errorCode : Exc → Option Half
  | .gp0 => some 0
  | .ss0 => some 0
  | .pf code _ => some code
  | .interrupt13 => none
  | .interrupt12 => none

/-- The linear address recorded with an exception (R170, R173). -/
def Exc.cr2 : Exc → Option Dword
  | .pf _ lin => some lin
  | .gp0 | .ss0 | .interrupt13 | .interrupt12 => none

/-- The state at an exception (R181): as before the instruction, but CR2 for #PF, whose code took one free value. -/
def State.atException (s : State) : Exc → State
  | .pf _ lin => { s with cr2 := lin, draws := s.draws + 1 }
  | .gp0 | .ss0 | .interrupt13 | .interrupt12 => s

/-- Push a word on the stack of real-address mode, at SS:SP (R183; log 24). -/
def State.pushReal (s : State) (v : Half) : Access Unit :=
  let sp := s.getReg .word .esp - 2
  (s.memWrite .ss (sp.setWidth 32) .word v).andThen fun _ s1 => .ok () (s1.setReg .word .esp sp)

/-- Enter the handler of a vector in real-address mode (R183): FLAGS, CS and IP are pushed, IF and TF cleared, IP and CS loaded
from physical 4 x vector and 4 x vector + 2. -/
def State.enterReal (s : State) (vector : Nat) : Access Unit :=
  (s.pushReal s.eflags.flags16).andThen fun _ s1 =>
    (s1.pushReal s1.segs.cs.selector).andThen fun _ s2 =>
      (s2.pushReal (s2.eip.setWidth 16)).andThen fun _ s3 =>
        let at4 (k : Nat) : Dword := BitVec.ofNat 32 (4 * vector + k)
        let ip : Half := s3.readAt .word [at4 0, at4 1]
        let cs : Half := s3.readAt .word [at4 2, at4 3]
        .ok ()
          { s3 with
            eip := ip.setWidth 32
            eflags := { s3.eflags with IF := false, TF := false }
            segs := { s3.segs with cs := { s3.segs.cs with selector := cs, base := cs.setWidth 32 <<< 4 } } }

/-- Record an exception that was delivered to a handler (R202, R203). -/
def State.recordDelivery (s : State) (e : Exc) : State := { s with delivered := s.delivered ++ [e] }

/-- Taking an exception (`Deliver` of R182), the one operation for every instruction and for fetch. The default ends the run with
the state of R181; with `Deliver.vectorTable` a real-mode exception enters its handler and is recorded (R183; log 8). -/
def State.takeException (s : State) (e : Exc) : Host.Outcome State Fault Refusal :=
  match s.launch.deliver, s.mode with
  | .vectorTable, .real =>
    match (s.atException e).enterReal e.vector with
    | .ok _ t => .next (t.recordDelivery e)
    | .raised during => .fault (.deliveryFailed e during (s.atException e))
    | .refused r => .refused r
  | _, _ => .fault (.exception e (s.atException e))

/-- The outcome of an instruction that began at `s`: an exception leaves the state of before the instruction (R181). -/
def State.conclude (s : State) (m : Access Unit) : Host.Outcome State Fault Refusal :=
  match m with
  | .ok _ t => .next t
  | .raised e => s.takeException e
  | .refused r => .refused r

/-! Fetching (R54, R72). -/

/-- Instruction byte `k`, at CS:EIP + k (R54); past offset FFFFFFFFh it is refused (D20). -/
def State.fetchByte (s : State) (k : Nat) : Access Byte :=
  if s.eip.toNat + k ≥ 2 ^ 32 then .refused .eipPastTop
  else
    (Access.check (s.segCheck .cs (s.eip + BitVec.ofNat 32 k) 1 .fetch) s).andThen fun lin s1 =>
      (s1.pageTranslate lin .fetch s1.user).andThen fun pa s2 => .ok (s2.readPhys pa) s2

/-- Fetch until the decoder has an instruction or refuses: only as many bytes as it needs (R54), at most `fuel - 1` more. -/
def State.fetchFrom (s : State) (got : List Byte) : Nat → Access Instr
  | 0 => .refused (.undecodable .tooLong)
  | fuel + 1 =>
    match decode s.defaultSize got with
    | .done i _ => .ok i s
    | .bad e => .refused (.undecodable e)
    | .more => (s.fetchByte got.length).andThen fun b s1 => State.fetchFrom s1 (got ++ [b]) fuel

/-- Fetch and decode the instruction at CS:EIP, of at most 15 bytes (R72, R91). -/
def State.fetch (s : State) : Access Instr := s.fetchFrom [] 16

/-- Why a state is outside what the spec's launch states may hold, if it is (R20, R22, R23; log 13). -/
def State.launchRefusal (s : State) : Option Refusal :=
  if !s.pe && s.eflags.VM then some .illegalMode
  else if s.eflags.TF then some .singleStep
  else if s.debugRegs.dr7 &&& 0xFF ≠ 0 then some .breakpoints
  else none

end Sys2Proof.Machine
end

