-- ==== Sys2Proof/Machine/Flags.lean ====
section
/-! DEFINITION. The flag computation of OR (R17, R102). -/

namespace Sys2Proof.Machine

/-- PF: the number of 1 bits of the result's low byte is even (R17). -/
def parityEven (b : Byte) : Bool :=
  !(b.getLsbD 0 ^^ b.getLsbD 1 ^^ b.getLsbD 2 ^^ b.getLsbD 3 ^^ b.getLsbD 4 ^^ b.getLsbD 5 ^^ b.getLsbD 6 ^^ b.getLsbD 7)

/-- The status flags of a result: CF and OF clear, SF, ZF, PF of the result, AF as drawn; the other fields stay (R102). -/
def Eflags.ofLogic {k : Nat} (f : Eflags) (r : BitVec k) (af : Bool) : Eflags :=
  { f with CF := false, OF := false, SF := r.msb, ZF := r = 0, PF := parityEven (r.setWidth 8), AF := af }

/-- `SetLogicFlags(r, w)` of R102; AF takes the next free value (log 6). -/
def State.setLogicFlags {k : Nat} (s : State) (r : BitVec k) : State :=
  { s with eflags := s.eflags.ofLogic r (Config.freeAF s.draws), draws := s.draws + 1 }

end Sys2Proof.Machine
end

