-- ==== Sys2Proof/Machine/Operands.lean ====
section
/-! DEFINITION. Operand forms: effective addresses and default segments of the r/m operand (30_encoding.md R77, R80 to R86), the
sign-extended immediates (R87), the source index of OUTS (R151, R152). -/

namespace Sys2Proof

/-- A 16-bit displacement: disp8 is sign-extended (R82, R86). -/
def Disp16.value : Disp16 → Half
  | .none => 0
  | .d8 d => d.signExtend 16
  | .d16 d => d

/-- A 32-bit displacement: disp8 is sign-extended (R85, R86). -/
def Disp32.value : Disp32 → Dword
  | .none => 0
  | .d8 d => d.signExtend 32
  | .d32 d => d

/-- The default segment of a 16-bit register sum (R81). -/
def Base16.defaultSeg : Base16 → SegReg
  | .bxSi | .bxDi | .si | .di | .bx => .ds
  | .bpSi | .bpDi | .bp => .ss

/-- The default segment of a 32-bit base register: SS for ESP and EBP (R83, R84). -/
def baseDefaultSeg (r : Reg) : SegReg := if r = .esp || r = .ebp then .ss else .ds

/-- The default segment of a memory operand (R26, R81, R83, R84). -/
def Addr.defaultSeg : Addr → SegReg
  | .direct16 _ => .ds
  | .based16 b _ => b.defaultSeg
  | .direct32 _ => .ds
  | .based32 r _ => baseDefaultSeg r
  | .sib base _ _ => baseDefaultSeg base
  | .sibNoBase _ _ => .ds

/-- The segment of a memory operand: the override, else the default (R77). -/
def Prefixes.segFor (p : Prefixes) (dflt : SegReg) : SegReg := p.seg.getD dflt

end Sys2Proof

namespace Sys2Proof.Machine

/-- A 16-bit register as an address component (R82). -/
def State.r16 (s : State) (i : Reg) : Half := s.getReg .word i

/-- A 32-bit register as an address component (R85). -/
def State.r32 (s : State) (i : Reg) : Dword := s.getReg .dword i

/-- The register sum of R81. -/
def State.sum16 (s : State) : Base16 → Half
  | .bxSi => s.r16 .ebx + s.r16 .esi
  | .bxDi => s.r16 .ebx + s.r16 .edi
  | .bpSi => s.r16 .ebp + s.r16 .esi
  | .bpDi => s.r16 .ebp + s.r16 .edi
  | .si => s.r16 .esi
  | .di => s.r16 .edi
  | .bp => s.r16 .ebp
  | .bx => s.r16 .ebx

/-- The index part: `x32[index] << scale`, bits beyond bit 31 discarded (R84, R85). -/
def State.indexPart (s : State) : Index → Dword
  | .none => 0
  | .scaled r scale => s.r32 r <<< scale.toNat

/-- The effective address of a memory operand, from the registers before the instruction (R82, R85, R106). -/
def State.offsetOf (s : State) : Addr → Dword
  | .direct16 d => d.setWidth 32
  | .based16 b d => (s.sum16 b + d.value).setWidth 32
  | .direct32 d => d
  | .based32 r d => s.r32 r + d.value
  | .sib base ix d => s.r32 base + s.indexPart ix + d.value
  | .sibNoBase ix d => s.indexPart ix + d

/-- `sext_16(imm8)` and `sext_32(imm8)` of R113 and R114. -/
def signExtendImm (w : Width) (imm : Byte) : BitVec w.bits := imm.signExtend w.bits

/-- The port of the forms with an immediate port number: `zext_16(imm8)` (R131). -/
def portOfImm (imm : Byte) : Half := imm.setWidth 16

/-- The port of the forms with DX (R131, R150). -/
def State.portDx (s : State) : Half := s.getReg .word .edx

/-- AddressSize of an instruction with no ModR/M byte, from the running code's default size (R75, R151). -/
def State.addressSize (s : State) (p : Prefixes) : Size := p.addressSize s.defaultSize

/-- The offset of the item of OUTS: SI or ESI (R151). -/
def State.sourceIndex (s : State) (p : Prefixes) : Dword := s.getSized (s.addressSize p) .esi

/-- The count of REP: CX or ECX (R164). -/
def State.repCount (s : State) (p : Prefixes) : Dword := s.getSized (s.addressSize p) .ecx

end Sys2Proof.Machine
end

