-- ==== Sys2Proof/Machine/Or.lean ====
section
/-! DEFINITION. OR, the fourteen forms (40_or.md R100 to R120). -/

namespace Sys2Proof.Machine

/-- R106 steps 6 and 7 after the result has been written. -/
def State.finishOr {k : Nat} (s : State) (r : BitVec k) (len : Nat) : Access Unit :=
  (s.setLogicFlags r).advance len

/-- OR with a register destination and a source value already read (R106). -/
def State.orToReg (s : State) (w : Width) (dst : Reg) (src : BitVec w.bits) (len : Nat) : Access Unit :=
  (s.setReg w dst (s.getReg w dst ||| src)).finishOr (s.getReg w dst ||| src) len

/-- OR with a memory destination: the read-modify-write of R53 (R106). -/
def State.orToMem (s : State) (w : Width) (seg : SegReg) (off : Dword) (src : BitVec w.bits) (len : Nat) : Access Unit :=
  (s.memUpdate seg off w len fun d => d ||| src).andThen fun r s1 => s1.finishOr r len

/-- OR with the r/m operand as destination (opcodes 80, 81, 83, 08, 09). -/
def State.orToRm (s : State) (w : Width) (p : Prefixes) (rm : RM) (src : BitVec w.bits) (len : Nat) : Access Unit :=
  match rm with
  | .reg d => s.orToReg w d src len
  | .mem a => s.orToMem w (p.segFor a.defaultSeg) (s.offsetOf a) src len

/-- OR with a register destination and the r/m operand as source (opcodes 0A, 0B; C1): memory is only read. -/
def State.orFromRm (s : State) (w : Width) (p : Prefixes) (dst : Reg) (rm : RM) (len : Nat) : Access Unit :=
  match rm with
  | .reg r => s.orToReg w dst (s.getReg w r) len
  | .mem a =>
    (s.memRead (p.segFor a.defaultSeg) (s.offsetOf a) w).andThen fun v s1 => s1.orToReg w dst v len

/-- `OR AL,imm8` (R107). -/
def execOrAlImm8 (p : Prefixes) (imm : Byte) (s : State) : Host.Outcome State Fault Refusal :=
  s.conclude (s.orToReg .byte .eax imm (Instr.len (.orAlImm8 p imm)))

/-- `OR AX,imm16` (R108). -/
def execOrAxImm16 (p : Prefixes) (imm : Half) (s : State) : Host.Outcome State Fault Refusal :=
  s.conclude (s.orToReg .word .eax imm (Instr.len (.orAxImm16 p imm)))

/-- `OR EAX,imm32` (R109). -/
def execOrEaxImm32 (p : Prefixes) (imm : Dword) (s : State) : Host.Outcome State Fault Refusal :=
  s.conclude (s.orToReg .dword .eax imm (Instr.len (.orEaxImm32 p imm)))

/-- `OR r/m8,imm8` (R110). -/
def execOrRm8Imm8 (p : Prefixes) (rm : RM) (imm : Byte) (s : State) : Host.Outcome State Fault Refusal :=
  s.conclude (s.orToRm .byte p rm imm (Instr.len (.orRm8Imm8 p rm imm)))

/-- `OR r/m16,imm16` (R111). -/
def execOrRm16Imm16 (p : Prefixes) (rm : RM) (imm : Half) (s : State) : Host.Outcome State Fault Refusal :=
  s.conclude (s.orToRm .word p rm imm (Instr.len (.orRm16Imm16 p rm imm)))

/-- `OR r/m32,imm32` (R112). -/
def execOrRm32Imm32 (p : Prefixes) (rm : RM) (imm : Dword) (s : State) : Host.Outcome State Fault Refusal :=
  s.conclude (s.orToRm .dword p rm imm (Instr.len (.orRm32Imm32 p rm imm)))

/-- `OR r/m16,imm8`, the immediate sign-extended (R113). -/
def execOrRm16Imm8 (p : Prefixes) (rm : RM) (imm : Byte) (s : State) : Host.Outcome State Fault Refusal :=
  s.conclude (s.orToRm .word p rm (signExtendImm .word imm) (Instr.len (.orRm16Imm8 p rm imm)))

/-- `OR r/m32,imm8`, the immediate sign-extended (R114). -/
def execOrRm32Imm8 (p : Prefixes) (rm : RM) (imm : Byte) (s : State) : Host.Outcome State Fault Refusal :=
  s.conclude (s.orToRm .dword p rm (signExtendImm .dword imm) (Instr.len (.orRm32Imm8 p rm imm)))

/-- `OR r/m8,r8` (R115). -/
def execOrRm8R8 (p : Prefixes) (rm : RM) (r : Reg) (s : State) : Host.Outcome State Fault Refusal :=
  s.conclude (s.orToRm .byte p rm (s.getReg .byte r) (Instr.len (.orRm8R8 p rm r)))

/-- `OR r/m16,r16` (R116). -/
def execOrRm16R16 (p : Prefixes) (rm : RM) (r : Reg) (s : State) : Host.Outcome State Fault Refusal :=
  s.conclude (s.orToRm .word p rm (s.getReg .word r) (Instr.len (.orRm16R16 p rm r)))

/-- `OR r/m32,r32` (R117). -/
def execOrRm32R32 (p : Prefixes) (rm : RM) (r : Reg) (s : State) : Host.Outcome State Fault Refusal :=
  s.conclude (s.orToRm .dword p rm (s.getReg .dword r) (Instr.len (.orRm32R32 p rm r)))

/-- `OR r8,r/m8` (R118). -/
def execOrR8Rm8 (p : Prefixes) (r : Reg) (rm : RM) (s : State) : Host.Outcome State Fault Refusal :=
  s.conclude (s.orFromRm .byte p r rm (Instr.len (.orR8Rm8 p r rm)))

/-- `OR r16,r/m16` (R119). -/
def execOrR16Rm16 (p : Prefixes) (r : Reg) (rm : RM) (s : State) : Host.Outcome State Fault Refusal :=
  s.conclude (s.orFromRm .word p r rm (Instr.len (.orR16Rm16 p r rm)))

/-- `OR r32,r/m32` (R120). -/
def execOrR32Rm32 (p : Prefixes) (r : Reg) (rm : RM) (s : State) : Host.Outcome State Fault Refusal :=
  s.conclude (s.orFromRm .dword p r rm (Instr.len (.orR32Rm32 p r rm)))

end Sys2Proof.Machine
end

