-- ==== Sys2Proof/Machine/Out.lean ====
section
/-! DEFINITION. OUT, the six forms (41_out.md R130 to R140). -/

namespace Sys2Proof.Machine

/-- R134 steps 3 to 5: the privilege check, the port write, the advance. -/
def State.outTo (s : State) (port : Half) (w : Width) (v : BitVec w.bits) (len : Nat) : Access Unit :=
  (s.ioCheck port w.bytes).andThen fun _ s1 =>
    (s1.ioWrite port w v).andThen fun _ s2 => s2.advance len

/-- `OUT imm8,AL` (R135). -/
def execOutImm8Al (p : Prefixes) (port : Byte) (s : State) : Host.Outcome State Fault Refusal :=
  s.conclude (s.outTo (portOfImm port) .byte (s.getReg .byte .eax) (Instr.len (.outImm8Al p port)))

/-- `OUT imm8,AX` (R136). -/
def execOutImm8Ax (p : Prefixes) (port : Byte) (s : State) : Host.Outcome State Fault Refusal :=
  s.conclude (s.outTo (portOfImm port) .word (s.getReg .word .eax) (Instr.len (.outImm8Ax p port)))

/-- `OUT imm8,EAX` (R137). -/
def execOutImm8Eax (p : Prefixes) (port : Byte) (s : State) : Host.Outcome State Fault Refusal :=
  s.conclude (s.outTo (portOfImm port) .dword (s.getReg .dword .eax) (Instr.len (.outImm8Eax p port)))

/-- `OUT DX,AL` (R138). -/
def execOutDxAl (p : Prefixes) (s : State) : Host.Outcome State Fault Refusal :=
  s.conclude (s.outTo s.portDx .byte (s.getReg .byte .eax) (Instr.len (.outDxAl p)))

/-- `OUT DX,AX` (R139). -/
def execOutDxAx (p : Prefixes) (s : State) : Host.Outcome State Fault Refusal :=
  s.conclude (s.outTo s.portDx .word (s.getReg .word .eax) (Instr.len (.outDxAx p)))

/-- `OUT DX,EAX` (R140). -/
def execOutDxEax (p : Prefixes) (s : State) : Host.Outcome State Fault Refusal :=
  s.conclude (s.outTo s.portDx .dword (s.getReg .dword .eax) (Instr.len (.outDxEax p)))

end Sys2Proof.Machine
end

