-- ==== Sys2Proof/Machine/Outs.lean ====
section
/-! DEFINITION. OUTS, OUTSB, OUTSW, OUTSD and their repetition (42_outs.md R150 to R165). -/

namespace Sys2Proof.Machine

/-- `IncDec` of R155 step 7: plus or minus the item's width, by DF. -/
def State.incDec (s : State) (w : Width) : Dword :=
  if s.eflags.DF then -(BitVec.ofNat 32 w.bytes) else BitVec.ofNat 32 w.bytes

/-- One item: R155 steps 2 to 8. -/
def State.outsItem (s : State) (w : Width) (p : Prefixes) : Access Unit :=
  (s.ioCheck s.portDx w.bytes).andThen fun _ s1 =>
    (s1.memRead (p.segFor .ds) (s.sourceIndex p) w).andThen fun v s2 =>
      (s2.ioWrite s.portDx w v).andThen fun _ s3 =>
        .ok () (s3.addSized (s.addressSize p) .esi (s.incDec w))

/-- OUTS without REP (R155). -/
def State.outs (s : State) (w : Width) (p : Prefixes) (len : Nat) : Access Unit :=
  (s.outsItem w p).andThen fun _ s1 => s1.advance len

/-- One step of REP OUTS: at most one iteration (R164). -/
def State.repOuts (s : State) (w : Width) (p : Prefixes) (len : Nat) : Access Unit :=
  if s.repCount p = 0 then s.advance len
  else
    (s.outsItem w p).andThen fun _ s1 =>
      let s2 := s1.addSized (s.addressSize p) .ecx (-1)
      if s2.repCount p = 0 then s2.advance len else .ok () s2

/-- `OUTS DX,r/m8` (R156). -/
def execOutsDxRm8 (p : Prefixes) (s : State) : Host.Outcome State Fault Refusal :=
  s.conclude (s.outs .byte p (Instr.len (.outsDxRm8 p)))

/-- `OUTS DX,r/m16` (R157). -/
def execOutsDxRm16 (p : Prefixes) (s : State) : Host.Outcome State Fault Refusal :=
  s.conclude (s.outs .word p (Instr.len (.outsDxRm16 p)))

/-- `OUTS DX,r/m32` (R158). -/
def execOutsDxRm32 (p : Prefixes) (s : State) : Host.Outcome State Fault Refusal :=
  s.conclude (s.outs .dword p (Instr.len (.outsDxRm32 p)))

/-- `OUTSB` (R159). -/
def execOutsb (p : Prefixes) (s : State) : Host.Outcome State Fault Refusal :=
  s.conclude (s.outs .byte p (Instr.len (.outsb p)))

/-- `OUTSW` (R160). -/
def execOutsw (p : Prefixes) (s : State) : Host.Outcome State Fault Refusal :=
  s.conclude (s.outs .word p (Instr.len (.outsw p)))

/-- `OUTSD` (R161). -/
def execOutsd (p : Prefixes) (s : State) : Host.Outcome State Fault Refusal :=
  s.conclude (s.outs .dword p (Instr.len (.outsd p)))

/-- `REP OUTSB` (R164). -/
def execRepOutsb (p : Prefixes) (s : State) : Host.Outcome State Fault Refusal :=
  s.conclude (s.repOuts .byte p (Instr.len (.repOutsb p)))

/-- `REP OUTSW` (R164). -/
def execRepOutsw (p : Prefixes) (s : State) : Host.Outcome State Fault Refusal :=
  s.conclude (s.repOuts .word p (Instr.len (.repOutsw p)))

/-- `REP OUTSD` (R164). -/
def execRepOutsd (p : Prefixes) (s : State) : Host.Outcome State Fault Refusal :=
  s.conclude (s.repOuts .dword p (Instr.len (.repOutsd p)))

end Sys2Proof.Machine
end

