-- ==== Sys2Proof/Machine/Dispatch.lean ====
section
/-! DEFINITION. One arm per instruction: its meaning. -/

namespace Sys2Proof.Machine

/-- The effect of an instruction that has been fetched and decoded. -/
def exec (i : Instr) (s : State) : Host.Outcome State Fault Refusal :=
  match i with
  | .orAlImm8 p imm => Sys2Proof.Machine.execOrAlImm8 p imm s
  | .orAxImm16 p imm => Sys2Proof.Machine.execOrAxImm16 p imm s
  | .orEaxImm32 p imm => Sys2Proof.Machine.execOrEaxImm32 p imm s
  | .orRm8Imm8 p rm imm => Sys2Proof.Machine.execOrRm8Imm8 p rm imm s
  | .orRm16Imm16 p rm imm => Sys2Proof.Machine.execOrRm16Imm16 p rm imm s
  | .orRm32Imm32 p rm imm => Sys2Proof.Machine.execOrRm32Imm32 p rm imm s
  | .orRm16Imm8 p rm imm => Sys2Proof.Machine.execOrRm16Imm8 p rm imm s
  | .orRm32Imm8 p rm imm => Sys2Proof.Machine.execOrRm32Imm8 p rm imm s
  | .orRm8R8 p rm r => Sys2Proof.Machine.execOrRm8R8 p rm r s
  | .orRm16R16 p rm r => Sys2Proof.Machine.execOrRm16R16 p rm r s
  | .orRm32R32 p rm r => Sys2Proof.Machine.execOrRm32R32 p rm r s
  | .orR8Rm8 p r rm => Sys2Proof.Machine.execOrR8Rm8 p r rm s
  | .orR16Rm16 p r rm => Sys2Proof.Machine.execOrR16Rm16 p r rm s
  | .orR32Rm32 p r rm => Sys2Proof.Machine.execOrR32Rm32 p r rm s
  | .outImm8Al p port => Sys2Proof.Machine.execOutImm8Al p port s
  | .outImm8Ax p port => Sys2Proof.Machine.execOutImm8Ax p port s
  | .outImm8Eax p port => Sys2Proof.Machine.execOutImm8Eax p port s
  | .outDxAl p => Sys2Proof.Machine.execOutDxAl p s
  | .outDxAx p => Sys2Proof.Machine.execOutDxAx p s
  | .outDxEax p => Sys2Proof.Machine.execOutDxEax p s
  | .outsDxRm8 p => Sys2Proof.Machine.execOutsDxRm8 p s
  | .outsDxRm16 p => Sys2Proof.Machine.execOutsDxRm16 p s
  | .outsDxRm32 p => Sys2Proof.Machine.execOutsDxRm32 p s
  | .outsb p => Sys2Proof.Machine.execOutsb p s
  | .outsw p => Sys2Proof.Machine.execOutsw p s
  | .outsd p => Sys2Proof.Machine.execOutsd p s
  | .repOutsb p => Sys2Proof.Machine.execRepOutsb p s
  | .repOutsw p => Sys2Proof.Machine.execRepOutsw p s
  | .repOutsd p => Sys2Proof.Machine.execRepOutsd p s

end Sys2Proof.Machine
end

