-- ==== Sys2Proof/Machine/Step.lean ====
section
/-! DEFINITION. One step: fetch, decode, execute (R7, R106), and where the host places an instruction word. -/

namespace Sys2Proof.Machine

/-- One step of the machine: one instruction, or one iteration under REP (R7). A state outside the spec's launch states is
refused (log 13); an exception of the fetch is taken at the instruction (R54, R178). With paging on, the A bits that the fetch of the
instruction's earlier bytes set are then dropped, since the exception is taken at the state before the fetch: DESIGN CHOICE, log 12, which
R181 permits; unsafe. An exception of the instruction itself keeps them, since exec starts from the state after the fetch. -/
def step (s : State) : Host.Outcome State Fault Refusal :=
  match s.launchRefusal with
  | some r => .refused r
  | none =>
    match s.fetch with
    | .ok i s1 => exec i s1
    | .raised e => s.takeException e
    | .refused r => .refused r

/-- Store bytes at consecutive offsets of CS from `off` on, as fetch would read them: through the page tables when paging is on. -/
def State.placeCode (s : State) (off : Dword) : List Byte → State
  | [] => s
  | b :: bs =>
    let lin := (s.segs.get .cs).base + off
    let pa := if s.paging then ((s.peekFrame lin).getD 0) ||| (lin &&& 0xFFF) else lin
    State.placeCode (s.writePhys pa b) (off + 1) bs

/-- The instruction word of the opcode table placed at CS:EIP, zeros above it up to the longest instruction (log 5, log 17). -/
def State.withFetchWord (s : State) (nbits w : Nat) : State := s.placeCode s.eip (tableBytes nbits w)

end Sys2Proof.Machine
end

