-- ==== Sys2Proof/Safety.lean ====
section
/-! DEFINITION. What counts as a legal launch state and a finished run (R202, R203), and the vocabulary of the statements:
which fields agree, what the flags of OR are, what paging may mark. -/

namespace Sys2Proof.Machine

/-! Launch states and runs. -/

/-- Every segment register in a list of names. -/
def allSegRegs : List SegReg := [.es, .cs, .ss, .ds, .fs, .gs]

/-- What R202 asks of a launch state: legal mode, TF and breakpoints off, CPL and `cs_default_size` of the mode (R24, R27), real-mode
and virtual 8086 bases (R47), no port written yet, no fault recorded. -/
def State.launchOk (s : State) : Bool :=
  s.launchRefusal.isNone && s.io.isEmpty && s.delivered.isEmpty &&
    match s.mode with
    | .real =>
      s.cpl = 0 && s.csDefaultSize = .s16 && !s.pg &&
        allSegRegs.all fun g =>
          (s.segs.get g).base = (s.segs.get g).selector.setWidth 32 <<< 4 && (s.segs.get g).limit = 0xFFFF
    | .prot => s.cpl = s.segs.cs.selector.extractLsb' 0 2
    | .v86 =>
      s.cpl = 3 && s.csDefaultSize = .s16 &&
        allSegRegs.all fun g => (s.segs.get g).base = (s.segs.get g).selector.setWidth 32 <<< 4

/-- EIP is at the end of the program (R203). -/
def State.runOver (s : State) : Bool :=
  match s.launch.program with
  | none => false
  | some pr => s.eip = pr.stop

/-- EIP is inside the program (R203). -/
def State.inProgram (s : State) : Bool :=
  match s.launch.program with
  | none => false
  | some pr => pr.start ≤ s.eip && s.eip < pr.stop

/-- The final state of a run from a state, if it has one within `n` steps (R203): every step starts with EIP inside the program and
completes without an exception, delivered to a handler or not, and EIP reaches the end after the last. -/
def finalState : Nat → State → Option State
  | 0, _ => none
  | n + 1, s =>
    if s.inProgram then
      match step s with
      | .next t => if t.delivered ≠ s.delivered then none else if t.runOver then some t else finalState n t
      | .fault _ => none
      | .refused _ => none
    else none

/-! Vocabulary of the statements. -/

/-- The number of 1 bits of a byte is even (the PF of R17, by counting). -/
def evenOnes (b : Byte) : Bool := ((List.range 8).filter fun j => b.getLsbD j).length % 2 = 0

/-- What R102 says of the flags after a result of `k` bits: CF, OF, SF, ZF, PF as given, AF anything, the rest unchanged. -/
def LogicFlags {k : Nat} (f g : Eflags) (r : BitVec k) : Prop :=
  g.CF = false ∧ g.OF = false ∧ g.SF = r.getLsbD (k - 1) ∧ (g.ZF = true ↔ r = 0) ∧
    g.PF = evenOnes (r.extractLsb' 0 8) ∧
    g.TF = f.TF ∧ g.IF = f.IF ∧ g.DF = f.DF ∧ g.IOPL = f.IOPL ∧ g.NT = f.NT ∧ g.RF = f.RF ∧ g.VM = f.VM

/-- The fields no instruction in scope writes: control registers, CPL, segment registers, TR, debug registers, the record
of delivered exceptions, launch. -/
def SameControl (s t : State) : Prop :=
  t.cr0 = s.cr0 ∧ t.cr2 = s.cr2 ∧ t.cr3 = s.cr3 ∧ t.cpl = s.cpl ∧ t.segs = s.segs ∧
    t.csDefaultSize = s.csDefaultSize ∧ t.tr = s.tr ∧ t.debugRegs = s.debugRegs ∧ t.delivered = s.delivered ∧ t.launch = s.launch

/-- Every byte of memory reads the same. -/
def SameMemory (s t : State) : Prop := ∀ a : Nat, Memory.read t.mem a = Memory.read s.mem a

/-- Every byte of memory reads the same outside the bytes at the listed physical addresses. -/
def SameMemoryBut (pas : List Dword) (s t : State) : Prop :=
  ∀ a : Nat, (∀ pa ∈ pas, pa.toNat ≠ a) → Memory.read t.mem a = Memory.read s.mem a

/-- The two states differ in memory alone, and there at most by bits 5 and 6 of bytes, set and never cleared: what the A and D bits
of R50 may do. Without paging they are equal. -/
def OnlyMarks (s t : State) : Prop :=
  t = { s with mem := t.mem } ∧
    (∀ a : Nat, Memory.read t.mem a ||| 0x60 = Memory.read s.mem a ||| 0x60 ∧
      Memory.read s.mem a &&& Memory.read t.mem a = Memory.read s.mem a) ∧
    (s.paging = false → t = s)

/-- `n` consecutive 32-bit addresses. -/
def addrRange (a : Dword) (n : Nat) : List Dword := (List.range n).map fun i => a + BitVec.ofNat 32 i

/-- What every OR that completes does, its result `r` known: flags (R102), EIP (R15), nothing to the I/O space or the control state. -/
def OrDone {k : Nat} (s t : State) (r : BitVec k) (len : Nat) : Prop :=
  LogicFlags s.eflags t.eflags r ∧ t.eip = s.eip + BitVec.ofNat 32 len ∧ t.io = s.io ∧ SameControl s t

/-- EIP plus the length stays below 2^32, so that the advance of R15 is not refused. -/
abbrev State.canAdvance (s : State) (len : Nat) : Prop := s.eip.toNat + len < 2 ^ 32

/-- An OR with a register destination and a source value: it completes, writes `DEST OR SRC` to that register at width `w`, sets the
flags of the result, leaves every other register and all memory (R100, R106). -/
def OrRegSpec (w : Width) (dst : Reg) (src : State → BitVec w.bits) (len : Nat)
    (run : State → Host.Outcome State Fault Refusal) : Prop :=
  ∀ s : State, s.canAdvance len →
    ∃ t : State, run s = .next t ∧
      t.regs = (s.setReg w dst (s.getReg w dst ||| src s)).regs ∧
      OrDone s t (s.getReg w dst ||| src s) len ∧ SameMemory s t

/-- An OR with a memory destination (R53, R106), for every mode: if the operand's bytes can be opened for writing (R46 to R50) and the
store is none of those refused (R208, D18), it completes, leaves every register, stores `DEST OR SRC` in the operand's bytes and changes
no other byte but the A and D bits that opening the operand set (`s1` is the state after them). -/
def OrMemSpec (w : Width) (p : Prefixes) (a : Addr) (src : State → BitVec w.bits) (len : Nat)
    (run : State → Host.Outcome State Fault Refusal) : Prop :=
  ∀ (s s1 : State) (pas : List Dword),
    s.openOperand (p.segFor a.defaultSeg) (s.offsetOf a) w .write = .ok pas s1 →
    s1.storeRefusal len pas = none → s.canAdvance len →
    ∃ t : State, run s = .next t ∧ t.regs = s.regs ∧
      t.readAt w pas = s1.readAt w pas ||| src s ∧
      OrDone s t (s1.readAt w pas ||| src s) len ∧ SameMemoryBut pas s1 t ∧ OnlyMarks s s1

/-- An OR with a register destination and a memory source (C1), for every mode: if `MemRead` answers (R51), it completes, writes the
register and leaves memory as `MemRead` left it. -/
def OrLoadSpec (w : Width) (p : Prefixes) (dst : Reg) (a : Addr) (len : Nat)
    (run : State → Host.Outcome State Fault Refusal) : Prop :=
  ∀ (s s1 : State) (v : BitVec w.bits),
    s.memRead (p.segFor a.defaultSeg) (s.offsetOf a) w = .ok v s1 → s.canAdvance len →
    ∃ t : State, run s = .next t ∧
      t.regs = (s.setReg w dst (s.getReg w dst ||| v)).regs ∧
      OrDone s t (s.getReg w dst ||| v) len ∧ SameMemory s1 t ∧ OnlyMarks s s1

/-- An OUT of a port and a value, permission given (R130 to R134): the one event at the end of the history, EIP advanced, every
register, flag and control field as before, memory as the permission check left it. -/
def OutSpec (w : Width) (port : State → Half) (value : State → BitVec w.bits) (len : Nat)
    (run : State → Host.Outcome State Fault Refusal) : Prop :=
  ∀ s s1 : State, s.ioCheck (port s) w.bytes = .ok () s1 →
    (port s).toNat + w.bytes ≤ 65536 → s.canAdvance len →
    ∃ t : State, run s = .next t ∧
      t.io = s.io ++ [⟨port s, w, (value s).setWidth 32⟩] ∧ t.eip = s.eip + BitVec.ofNat 32 len ∧
      t.regs = s.regs ∧ t.eflags = s.eflags ∧ SameControl s t ∧ SameMemory s1 t ∧ OnlyMarks s s1

/-- What one transfer of OUTS leaves outside the registers and EIP (R155): one event, the flags and the control fields as before, memory
as in `s2`, the state the item's read left. -/
def OutsItemDone (w : Width) (s s2 t : State) (v : BitVec w.bits) : Prop :=
  t.io = s.io ++ [⟨s.portDx, w, v.setWidth 32⟩] ∧ t.eflags = s.eflags ∧ SameControl s t ∧ SameMemory s2 t ∧
    OnlyMarks s s2

/-- Permission given, item readable and port inside the I/O space: what R155 needs to transfer the item `v`. `s1` is the state after the
permission check, `s2` the state after the read; both differ from `s` by A and D bits alone. -/
def OutsReady (w : Width) (p : Prefixes) (s s1 s2 : State) (v : BitVec w.bits) : Prop :=
  s.ioCheck s.portDx w.bytes = .ok () s1 ∧
    s1.memRead (p.segFor .ds) (s.sourceIndex p) w = .ok v s2 ∧ s.portDx.toNat + w.bytes ≤ 65536

/-- An OUTS without REP (R155). -/
def OutsSpec (w : Width) (p : Prefixes) (len : Nat) (run : State → Host.Outcome State Fault Refusal) : Prop :=
  ∀ (s s1 s2 : State) (v : BitVec w.bits), OutsReady w p s s1 s2 v → s.canAdvance len →
    ∃ t : State, run s = .next t ∧ OutsItemDone w s s2 t v ∧
      t.regs = (s.addSized (s.addressSize p) .esi (s.incDec w)).regs ∧ t.eip = s.eip + BitVec.ofNat 32 len

/-- One step of REP OUTS (R164): with a zero count only EIP moves; otherwise one item, the count one less, and EIP moves exactly when
the count has become zero. -/
def RepOutsSpec (w : Width) (p : Prefixes) (len : Nat) (run : State → Host.Outcome State Fault Refusal) : Prop :=
  (∀ s : State, s.repCount p = 0 → s.canAdvance len →
    run s = .next { s with eip := s.eip + BitVec.ofNat 32 len }) ∧
  (∀ (s s1 s2 : State) (v : BitVec w.bits), s.repCount p ≠ 0 → OutsReady w p s s1 s2 v → s.canAdvance len →
    ∃ t : State, run s = .next t ∧ OutsItemDone w s s2 t v ∧
      t.regs = ((s.addSized (s.addressSize p) .esi (s.incDec w)).addSized (s.addressSize p) .ecx (-1)).regs ∧
      t.eip = if s.repCount p = 1 then s.eip + BitVec.ofNat 32 len else s.eip)

/-- The page-directory entry of a linear address, at CR3[31:12] and 4 x lin[31:22] (R50). -/
def State.pdeOf (s : State) (lin : Dword) : Dword :=
  s.physRead32 ((s.cr3 &&& 0xFFFFF000) + BitVec.ofNat 32 (4 * (lin.toNat / 2 ^ 22)))

/-- Where the page-table entry of a linear address lies, at the directory entry's frame and 4 x lin[21:12] (R50). -/
def State.pteAddrOf (s : State) (lin : Dword) : Dword :=
  (s.pdeOf lin &&& 0xFFFFF000) + BitVec.ofNat 32 (4 * (lin.toNat / 2 ^ 12 % 1024))

/-- The page-table entry of a linear address (R50). -/
def State.pteOf (s : State) (lin : Dword) : Dword := s.physRead32 (s.pteAddrOf lin)

/-- Both entries are present (R50). -/
def State.pagePresent (s : State) (lin : Dword) : Prop := (s.pdeOf lin).getLsbD 0 = true ∧ (s.pteOf lin).getLsbD 0 = true

/-- The access passes page-level protection: always for a supervisor; for a user both U/S bits, and for a write both R/W bits (R50). -/
def State.pageAllowed (s : State) (lin : Dword) (kind : AccessKind) (user : Bool) : Prop :=
  user = true → ((s.pdeOf lin).getLsbD 2 = true ∧ (s.pteOf lin).getLsbD 2 = true) ∧
    (kind = .write → (s.pdeOf lin).getLsbD 1 = true ∧ (s.pteOf lin).getLsbD 1 = true)

/-- The physical address of a mapped linear address (R50). -/
def State.mappedTo (s : State) (lin : Dword) : Dword := (s.pteOf lin &&& 0xFFFFF000) ||| (lin &&& 0xFFF)

/-- The byte at a linear address is the one at a physical address: the same number without paging, where the present page maps it with
paging (R49, R50). -/
def State.IsImage (s : State) (lin pa : Dword) : Prop :=
  if s.paging = true then s.pagePresent lin ∧ s.mappedTo lin = pa else pa = lin

/-- One of the addresses holds a program byte at a CS offset at or beyond the end of the storing instruction and before the program's
end (R208). -/
def State.HitsProgramAhead (s : State) (len : Nat) (pas : List Dword) : Prop :=
  ∃ pa ∈ pas, ∃ pr : ProgramRange, s.launch.program = some pr ∧ ∃ o : Nat, s.eip.toNat + len ≤ o ∧ pr.start.toNat ≤ o ∧
    o < pr.stop.toNat ∧ s.IsImage (s.segs.cs.base + BitVec.ofNat 32 o) pa

/-- Paging is on and one of the addresses lies in the page directory, or in the page table a present entry of it names (D18; log 14). -/
def State.HitsPageTables (s : State) (pas : List Dword) : Prop :=
  s.paging = true ∧ ∃ pa ∈ pas, pa.toNat / 4096 = s.cr3.toNat / 4096 ∨
    ∃ k < 1024, (s.physRead32 ((s.cr3 &&& 0xFFFFF000) + BitVec.ofNat 32 (4 * k))).getLsbD 0 = true ∧
      pa.toNat / 4096 = (s.physRead32 ((s.cr3 &&& 0xFFFFF000) + BitVec.ofNat 32 (4 * k))).toNat / 4096

/-- PE = 1, TR is loaded and one of the addresses holds a byte of the TSS, whose greatest offset is its limit (D18, R28; log 14). -/
def State.HitsTss (s : State) (pas : List Dword) : Prop :=
  s.pe = true ∧ s.tr.selector ≠ 0 ∧ ∃ pa ∈ pas, ∃ o ≤ s.tr.limit.toNat, s.IsImage (s.tr.base + BitVec.ofNat 32 o) pa

/-- An OR with a memory destination in real-address mode (R47, R53, R106): with every byte of the operand at an offset up to FFFFh, and
none of them a program byte ahead of the instruction (R208; log 15, log 34), it completes, stores `DEST OR SRC` at segment base plus
offset and changes no other byte. -/
def OrRealMemSpec (w : Width) (p : Prefixes) (a : Addr) (src : State → BitVec w.bits) (len : Nat)
    (run : State → Host.Outcome State Fault Refusal) : Prop :=
  ∀ (s : State) (pas : List Dword), s.pe = false → s.canAdvance len → (s.offsetOf a).toNat + w.bytes ≤ 65536 →
    pas = addrRange ((s.segs.get (p.segFor a.defaultSeg)).base + s.offsetOf a) w.bytes → ¬ s.HitsProgramAhead len pas →
    ∃ t : State, run s = .next t ∧ t.regs = s.regs ∧
      t.readAt w pas = s.readAt w pas ||| src s ∧
      OrDone s t (s.readAt w pas ||| src s) len ∧ SameMemoryBut pas s t

/-- An OR with a memory source in real-address mode (R47, R51, R106; C1). -/
def OrRealLoadSpec (w : Width) (p : Prefixes) (dst : Reg) (a : Addr) (len : Nat)
    (run : State → Host.Outcome State Fault Refusal) : Prop :=
  ∀ (s : State) (v : BitVec w.bits), s.pe = false → s.canAdvance len → (s.offsetOf a).toNat + w.bytes ≤ 65536 →
    v = s.readAt w (addrRange ((s.segs.get (p.segFor a.defaultSeg)).base + s.offsetOf a) w.bytes) →
    ∃ t : State, run s = .next t ∧
      t.regs = (s.setReg w dst (s.getReg w dst ||| v)).regs ∧
      OrDone s t (s.getReg w dst ||| v) len ∧ SameMemory s t

/-- An OUT where the permission bits are not consulted (R132, R134): the next state is the state before with one more event and EIP
advanced. -/
def OutUncheckedSpec (w : Width) (port : State → Half) (value : State → BitVec w.bits) (len : Nat)
    (run : State → Host.Outcome State Fault Refusal) : Prop :=
  ∀ s : State, s.pe = false ∨ (s.eflags.VM = false ∧ s.cpl.toNat ≤ s.eflags.IOPL.toNat) →
    (port s).toNat + w.bytes ≤ 65536 → s.canAdvance len →
    run s = .next { s with
      io := s.io ++ [⟨port s, w, (value s).setWidth 32⟩]
      eip := s.eip + BitVec.ofNat 32 len }

/-- An OUTS in real-address mode (R151, R152, R155): the item at segment base plus source index goes to the port in DX. -/
def OutsRealSpec (w : Width) (p : Prefixes) (len : Nat) (run : State → Host.Outcome State Fault Refusal) : Prop :=
  ∀ (s : State) (v : BitVec w.bits), s.pe = false → s.portDx.toNat + w.bytes ≤ 65536 → s.canAdvance len →
    (s.sourceIndex p).toNat + w.bytes ≤ 65536 →
    v = s.readAt w (addrRange ((s.segs.get (p.segFor .ds)).base + s.sourceIndex p) w.bytes) →
    ∃ t : State, run s = .next t ∧ t.io = s.io ++ [⟨s.portDx, w, v.setWidth 32⟩] ∧
      t.regs = (s.addSized (s.addressSize p) .esi (s.incDec w)).regs ∧ t.eip = s.eip + BitVec.ofNat 32 len ∧
      t.eflags = s.eflags ∧ SameControl s t ∧ SameMemory s t

/-- A store the spec refuses (R208, D18): the OR with that memory destination is refused by the same name. -/
def OrMemRefusedSpec (w : Width) (p : Prefixes) (a : Addr) (len : Nat)
    (run : State → Host.Outcome State Fault Refusal) : Prop :=
  ∀ (s s1 : State) (pas : List Dword) (r : Refusal),
    s.openOperand (p.segFor a.defaultSeg) (s.offsetOf a) w .write = .ok pas s1 →
    s1.storeRefusal len pas = some r → run s = .refused r

/-- The I/O permission bits are consulted and one of them is 1 (or lies beyond the TSS): #GP(0), nothing else changes (R132, R154, R182). -/
def IoDeniedSpec (port : State → Half) (n : Nat) (run : State → Host.Outcome State Fault Refusal) : Prop :=
  ∀ s s1 : State, s.launch.deliver = .terminal → s.ioConsults = true → s.ioPermission (port s) n = .ok false s1 →
    run s = .fault (.exception .gp0 s)

/-! The instructions by shape, each with its width: what the statements about traps and refusals range over. -/

/-- The fourteen forms of OR without a memory operand. -/
def orRegisterForms (p : Prefixes) (r q : Reg) (b : Byte) (h : Half) (v : Dword) : List Instr :=
  [.orAlImm8 p b, .orAxImm16 p h, .orEaxImm32 p v, .orRm8Imm8 p (.reg r) b, .orRm16Imm16 p (.reg r) h, .orRm32Imm32 p (.reg r) v,
    .orRm16Imm8 p (.reg r) b, .orRm32Imm8 p (.reg r) b, .orRm8R8 p (.reg r) q, .orRm16R16 p (.reg r) q, .orRm32R32 p (.reg r) q,
    .orR8Rm8 p r (.reg q), .orR16Rm16 p r (.reg q), .orR32Rm32 p r (.reg q)]

/-- The eight forms of OR with a memory destination. -/
def orMemoryForms (p : Prefixes) (a : Addr) (r : Reg) (b : Byte) (h : Half) (v : Dword) : List (Width × Instr) :=
  [(.byte, .orRm8Imm8 p (.mem a) b), (.word, .orRm16Imm16 p (.mem a) h), (.dword, .orRm32Imm32 p (.mem a) v),
    (.word, .orRm16Imm8 p (.mem a) b), (.dword, .orRm32Imm8 p (.mem a) b), (.byte, .orRm8R8 p (.mem a) r),
    (.word, .orRm16R16 p (.mem a) r), (.dword, .orRm32R32 p (.mem a) r)]

/-- The three forms of OR with a memory source. -/
def orLoadForms (p : Prefixes) (a : Addr) (r : Reg) : List (Width × Instr) :=
  [(.byte, .orR8Rm8 p r (.mem a)), (.word, .orR16Rm16 p r (.mem a)), (.dword, .orR32Rm32 p r (.mem a))]

/-- The three forms of OUT to the port in an immediate byte. -/
def outImmForms (p : Prefixes) (n : Byte) : List (Width × Instr) :=
  [(.byte, .outImm8Al p n), (.word, .outImm8Ax p n), (.dword, .outImm8Eax p n)]

/-- The three forms of OUT to the port in DX. -/
def outDxForms (p : Prefixes) : List (Width × Instr) := [(.byte, .outDxAl p), (.word, .outDxAx p), (.dword, .outDxEax p)]

/-- The six rows of OUTS. -/
def outsForms (p : Prefixes) : List (Width × Instr) :=
  [(.byte, .outsDxRm8 p), (.word, .outsDxRm16 p), (.dword, .outsDxRm32 p), (.byte, .outsb p), (.word, .outsw p), (.dword, .outsd p)]

/-- The three rows of REP OUTS. -/
def repOutsForms (p : Prefixes) : List (Width × Instr) :=
  [(.byte, .repOutsb p), (.word, .repOutsw p), (.dword, .repOutsd p)]

/-- An instruction ends in an exception, with the state of R181, under the default `Deliver` (R182). -/
def TrapsWith (i : Instr) (s : State) (e : Exc) : Prop := exec i s = .fault (.exception e (s.atException e))

/-- EIP plus the length reaches 2^32, so that the advance of R15 is refused (D20). -/
abbrev State.pastTop (s : State) (len : Nat) : Prop := 2 ^ 32 ≤ s.eip.toNat + len

/-- The number an exact sum of registers and displacement makes under 16-bit addressing, before it is cut to 16 bits (R81, R82). -/
def exactSum16 (s : State) : Addr → Int
  | .direct16 d => d.toNat
  | .based16 b d =>
    let reg (r : Reg) : Int := (((s.regs.get32 r).toNat % 65536 : Nat) : Int)
    (match b with
      | .bxSi => reg .ebx + reg .esi
      | .bxDi => reg .ebx + reg .edi
      | .bpSi => reg .ebp + reg .esi
      | .bpDi => reg .ebp + reg .edi
      | .si => reg .esi
      | .di => reg .edi
      | .bp => reg .ebp
      | .bx => reg .ebx) +
    (match d with
      | .none => 0
      | .d8 d => d.toInt
      | .d16 d => d.toNat)
  | .direct32 _ | .based32 _ _ | .sib _ _ _ | .sibNoBase _ _ => 0

/-- The number an exact sum makes under 32-bit addressing, before it is cut to 32 bits (R83 to R85). -/
def exactSum32 (s : State) : Addr → Int
  | .direct16 _ | .based16 _ _ => 0
  | .direct32 d => d.toNat
  | .based32 r d => reg r + disp d
  | .sib base ix d => reg base + index ix + disp d
  | .sibNoBase ix d => index ix + d.toNat
where
  reg (r : Reg) : Int := (s.regs.get32 r).toNat
  index : Index → Int
    | .none => 0
    | .scaled r scale => reg r * 2 ^ scale.toNat
  disp : Disp32 → Int
    | .none => 0
    | .d8 d => d.toInt
    | .d32 d => d.toNat

/-- The I/O permission bit of a port: bit `q % 8` of the byte at TR.base + iobase + q / 8, `iobase` the word at TR.base + 66h (R29, R30),
read as without paging. -/
def State.ioBase (s : State) : Nat := (s.readAt .word [s.tr.base + 0x66, s.tr.base + 0x67]).toNat

/-- See `State.ioBase`. -/
def State.permissionBit (s : State) (q : Nat) : Bool :=
  (s.readPhys (s.tr.base + BitVec.ofNat 32 (s.ioBase + q / 8))).getLsbD (q % 8)

/-- `k` executions of one instruction, stopping at the first fault or refusal. -/
def execTimes (i : Instr) : Nat → State → Host.Outcome State Fault Refusal
  | 0, s => .next s
  | k + 1, s =>
    match exec i s with
    | .next t => execTimes i k t
    | .fault f => .fault f
    | .refused r => .refused r

/-- The offset of item `j` of a repeated OUTS: the index moved `j` times by `incDec` at its own width (R155, R164). -/
def State.itemOffset (s : State) (w : Width) (p : Prefixes) (j : Nat) : Dword :=
  (s.addSized (s.addressSize p) .esi (BitVec.ofNat 32 j * s.incDec w)).sourceIndex p

/-- A whole `REP OUTS` in real-address mode (R164): with a count `k` above 0, every item inside 0 to FFFFh and the port inside the I/O
space, `k` executions perform `k` transfers in order, leave the count 0 and the index moved `k` times, and only then move EIP. -/
def RepOutsRunSpec (w : Width) (p : Prefixes) (len : Nat) (i : Instr) : Prop :=
  ∀ s : State, s.pe = false → s.repCount p ≠ 0 → s.portDx.toNat + w.bytes ≤ 65536 → s.canAdvance len →
    (∀ j < (s.repCount p).toNat, (s.itemOffset w p j).toNat + w.bytes ≤ 65536) →
    ∃ t : State, execTimes i (s.repCount p).toNat s = .next t ∧
      t.io = s.io ++ (List.range (s.repCount p).toNat).map (fun j =>
        ⟨s.portDx, w, (s.readAt w (addrRange ((s.segs.get (p.segFor .ds)).base + s.itemOffset w p j) w.bytes)).setWidth 32⟩) ∧
      t.repCount p = 0 ∧
      t.regs = ((s.addSized (s.addressSize p) .esi (s.repCount p * s.incDec w)).addSized (s.addressSize p) .ecx
        (-(s.repCount p))).regs ∧
      t.eip = s.eip + BitVec.ofNat 32 len ∧ t.eflags = s.eflags ∧ SameControl s t ∧ SameMemory s t

/-- The first `n` instruction bytes at CS:EIP + `k`, fetched one at a time (R54). -/
def State.fetchBytes (s : State) (k : Nat) : Nat → Access (List Byte)
  | 0 => .ok [] s
  | n + 1 =>
    (s.fetchByte k).andThen fun b s1 =>
      (State.fetchBytes s1 (k + 1) n).andThen fun bs s2 => .ok (b :: bs) s2

end Sys2Proof.Machine
end

