-- ==== Sys2Proof/Certificates/Slice0/Obligations.lean ====
section
/-! DEFINITION. The statements for the provers, each with the rules of spec/ it formalises. -/

open Sys2Proof Sys2Proof.Machine

/-! Encoding and decoding. -/

/-- Every well-formed instruction of every family is decoded from its encoding, whatever bytes follow (R70 to R89). The choice between
the two spellings of OUTS is the model's (log 16). -/
def Obligations.DecodeInvertsEncode : Prop :=
  ∀ (d : Size) (i : Instr) (rest : List Byte), i.wf d = true → decode d (encode i ++ rest) = .done i rest

/-- Whatever the decoder answers is well-formed and took exactly `len` bytes, at most 14 (R15, R72, R91). -/
def Obligations.DecodedInstructionHasItsLength : Prop :=
  ∀ (d : Size) (bs rest : List Byte) (i : Instr), decode d bs = .done i rest →
    i.wf d = true ∧ i.len ≤ 14 ∧ ∃ used, bs = used ++ rest ∧ used.length = i.len

/-- Prefix bytes may come in any order (R73). -/
def Obligations.PrefixOrderDoesNotMatter : Prop :=
  ∀ (d : Size) (pre pre' body rest : List Byte) (i : Instr), pre.Perm pre' → (∀ b ∈ pre, prefixByteOf b ≠ none) →
    decode d (pre ++ body) = .done i rest → decode d (pre' ++ body) = .done i rest

/-- What the spec refuses is never decoded (R72, R73, R78, R84, R90): an opcode outside the fifteen, LOCK, REPNE, REP before anything but
6E and 6F, a prefix class twice, 80, 81 or 83 with a reg field other than 001b; under 32-bit addressing a SIB byte with index 100b and a
scale other than 00b (D22, vector X9). -/
def Obligations.RefusedEncodingsNeverDecode : Prop :=
  (∀ (d : Size) (pre rest rest' : List Byte) (b : Byte) (i : Instr), (∀ x ∈ pre, prefixByteOf x ≠ none) → prefixByteOf b = none →
    decode d (pre ++ b :: rest) = .done i rest' →
    b ∈ ([0x08, 0x09, 0x0A, 0x0B, 0x0C, 0x0D, 0x80, 0x81, 0x83, 0xE6, 0xE7, 0xEE, 0xEF, 0x6E, 0x6F] : List Byte) ∧
    (0xF0 : Byte) ∉ pre ∧ (0xF2 : Byte) ∉ pre ∧ ((0xF3 : Byte) ∈ pre → b = 0x6E ∨ b = 0x6F) ∧
    pre.count 0x66 ≤ 1 ∧ pre.count 0x67 ≤ 1 ∧ pre.count 0xF3 ≤ 1 ∧
    pre.countP (fun x => x ∈ ([0x26, 0x2E, 0x36, 0x3E, 0x64, 0x65] : List Byte)) ≤ 1 ∧
    (b = 0x80 ∨ b = 0x81 ∨ b = 0x83 → ∃ m tail, rest = m :: tail ∧ m.extractLsb' 3 3 = (1 : BitVec 3))) ∧
  (∀ (d : Size) (rest : List Byte) (b : Byte), prefixByteOf b = none → opcodeOf b = none →
    decode d (b :: rest) = .bad .opcodeNotInSpec) ∧
  (∀ (d : Size) (pre rest rest' : List Byte) (b m sib : Byte) (i : Instr), (∀ x ∈ pre, prefixByteOf x ≠ none) →
    b ∈ ([0x08, 0x09, 0x0A, 0x0B, 0x80, 0x81, 0x83] : List Byte) → (d = .s32 ↔ (0x67 : Byte) ∉ pre) →
    m.extractLsb' 6 2 ≠ (3 : BitVec 2) → m.extractLsb' 0 3 = (4 : BitVec 3) →
    sib.extractLsb' 3 3 = (4 : BitVec 3) → sib.extractLsb' 6 2 ≠ (0 : BitVec 2) →
    decode d (pre ++ b :: m :: sib :: rest) ≠ .done i rest')

/-- Words written out from the spec's encodings, one or more per family (R71, R79, R84, R87, R88; vectors V8, V11, V30, O1, S6, Q4). That
26 6E is read as `OUTS DX,r/m8` and not as OUTSB, which R159 allows too, is the model's choice (log 16). -/
def Obligations.WrittenWordsDecode : Prop :=
  decode .s16 [0x80, 0xCC, 0x0F] = .done (.orRm8Imm8 ⟨false, false, none⟩ (.reg .esp) 0x0F) [] ∧
  decode .s16 [0x81, 0x0E, 0x00, 0x03, 0xF0, 0x0F] =
    .done (.orRm16Imm16 ⟨false, false, none⟩ (.mem (.direct16 0x0300)) 0x0FF0) [] ∧
  decode .s32 [0x09, 0x44, 0x8A, 0xFC] =
    .done (.orRm32R32 ⟨false, false, none⟩ (.mem (.sib .edx (.scaled .ecx 2) (.d8 0xFC))) .eax) [] ∧
  decode .s16 [0xE6, 0xFF] = .done (.outImm8Al ⟨false, false, none⟩ 0xFF) [] ∧
  decode .s16 [0x26, 0x6E] = .done (.outsDxRm8 ⟨false, false, some .es⟩) [] ∧
  decode .s16 [0xF3, 0x66, 0x67, 0x6F] = .done (.repOutsd ⟨true, true, none⟩) []

/-! The step. -/

/-- When the bytes fetched at CS:EIP are an instruction, the step is that instruction's effect on the state the fetch left, which
differs from the state before by A and D bits alone, and not at all without paging; EIP moves inside the effect (R7, R15, R54, R106). -/
def Obligations.StepRunsDecodedInstruction : Prop :=
  ∀ (s s1 : State) (bs : List Byte) (i : Instr), s.launchRefusal = none →
    s.fetchBytes 0 bs.length = .ok bs s1 → decode s.defaultSize bs = .done i [] →
    step s = exec i s1 ∧ OnlyMarks s s1

/-- What R34 gives of the state after reset (bits 1 to 3 of CR0 are MP, EM and TS, R21), and where the first byte is fetched from. DH = 03h is the model's choice (log 2): R34 names
the value and says that EDX is treated as unspecified. -/
def Obligations.ResetHoldsGivenValues : Prop :=
  State.reset.eip = 0x0000FFF0 ∧ State.reset.eflags.word = 0x00000002 ∧ State.reset.pe = false ∧ State.reset.pg = false ∧
  State.reset.cr0.getLsbD 1 = false ∧ State.reset.cr0.getLsbD 2 = false ∧ State.reset.cr0.getLsbD 3 = false ∧
  State.reset.mode = .real ∧ State.reset.cpl = 0 ∧ State.reset.csDefaultSize = .s16 ∧
  State.reset.segs.cs.selector = 0xF000 ∧ State.reset.segs.cs.base = 0xFFFF0000 ∧
  (∀ g : SegReg, (State.reset.segs.get g).limit = 0xFFFF ∧ (State.reset.segs.get g).readable = true ∧
    (State.reset.segs.get g).writable = true) ∧
  (∀ g : SegReg, g ≠ .cs → (State.reset.segs.get g).selector = 0 ∧ (State.reset.segs.get g).base = 0 ∧
    (State.reset.segs.get g).expandDown = false) ∧
  State.reset.debugRegs.dr7 = 0 ∧ State.reset.io = [] ∧ State.reset.regs.get8 .esi = 0x03 ∧
  State.reset.fetchByte 0 = .ok (State.reset.readPhys 0xFFFFFFF0) State.reset

/-- Reset memory is in canonical form. The form and the value an unlisted byte reads as are the model's choice (log 1). -/
def Obligations.ResetMemoryCanonical : Prop := Memory.wf State.reset.mem = true ∧ State.reset.launchRefusal = none

/-- Every step keeps physical memory in canonical form: addresses rising and below 2^32, no default byte listed (R32; log 1). -/
def Obligations.StepKeepsMemoryCanonical : Prop :=
  ∀ s t : State, Memory.wf s.mem = true → step s = .next t → Memory.wf t.mem = true

/-- Mode, CPL, IOPL, DF and the control state are constant during a run (R18 to R22, R25, R28, R186); only the delivery of a real-mode
exception, a parameter of the model (R183, log 8), changes CS, TF and IF, and it is recorded. -/
def Obligations.StepKeepsModeAndControl : Prop :=
  ∀ s t : State, step s = .next t →
    t.mode = s.mode ∧ t.cr0 = s.cr0 ∧ t.cr3 = s.cr3 ∧ t.cpl = s.cpl ∧ t.csDefaultSize = s.csDefaultSize ∧ t.tr = s.tr ∧
    t.debugRegs = s.debugRegs ∧ t.launch = s.launch ∧
    t.eflags.IOPL = s.eflags.IOPL ∧ t.eflags.VM = s.eflags.VM ∧ t.eflags.DF = s.eflags.DF ∧ t.eflags.NT = s.eflags.NT ∧
    t.eflags.RF = s.eflags.RF ∧ (∀ g : SegReg, g ≠ .cs → t.segs.get g = s.segs.get g) ∧
    (t.delivered = s.delivered ∨ ∃ e : Exc, t.delivered = s.delivered ++ [e]) ∧
    (s.launch.deliver = .terminal ∨ t.delivered = s.delivered →
      t.segs = s.segs ∧ t.cr2 = s.cr2 ∧ t.eflags.TF = s.eflags.TF ∧ t.eflags.IF = s.eflags.IF ∧ t.delivered = s.delivered)

/-- The I/O history is only ever appended to, by at most one event a step, inside the 65536 ports (R31, R134, R155). -/
def Obligations.IoHistoryOnlyGrows : Prop :=
  ∀ s t : State, step s = .next t →
    t.io = s.io ∨ ∃ e : IoEvent, t.io = s.io ++ [e] ∧ e.port.toNat + e.width.bytes ≤ 65536

/-- The mode is decided by PE and VM; PE = 0 with VM = 1 is refused (R23). -/
def Obligations.ModeFromPeAndVm : Prop :=
  ∀ s : State,
    (s.cr0.getLsbD 0 = false → s.mode = .real) ∧
    (s.cr0.getLsbD 0 = true → s.eflags.VM = false → s.mode = .prot) ∧
    (s.cr0.getLsbD 0 = true → s.eflags.VM = true → s.mode = .v86) ∧
    (s.cr0.getLsbD 0 = false → s.eflags.VM = true → step s = .refused .illegalMode)

/-- A state no launch may hold is refused by name: PE = 0 with VM = 1 (R23), TF = 1 (R20), DR7 breakpoints on (R22; layout log 13). -/
def Obligations.IllegalLaunchStatesRefused : Prop :=
  (∀ s : State, s.pe = false → s.eflags.VM = true → step s = .refused .illegalMode) ∧
  (∀ s : State, (s.pe = true ∨ s.eflags.VM = false) → s.eflags.TF = true → step s = .refused .singleStep) ∧
  (∀ s : State, (s.pe = true ∨ s.eflags.VM = false) → s.eflags.TF = false → s.debugRegs.dr7.extractLsb' 0 8 ≠ (0 : BitVec 8) →
    step s = .refused .breakpoints)

/-- Where exceptions end the run, an instruction that completes moves EIP by exactly its length, without wrapping; only a repeated OUTS
whose count is not yet zero leaves EIP where it is (R7, R15, R164). -/
def Obligations.EipMovesByTheLength : Prop :=
  ∀ (i : Instr) (s t : State), s.launch.deliver = .terminal → exec i s = .next t →
    t.eip.toNat = s.eip.toNat + i.len ∨
      (t.eip = s.eip ∧ ∃ p : Prefixes, (i = .repOutsb p ∨ i = .repOutsw p ∨ i = .repOutsd p) ∧ t.repCount p ≠ 0)

/-! Registers and flags. -/

/-- The 16-bit and 8-bit registers are the named bits of the 32-bit registers (R11, R12). -/
def Obligations.SubregistersAreTheirBits : Prop :=
  ∀ s : State,
    (∀ i : Reg, s.getReg .word i = (s.getReg .dword i).extractLsb' 0 16) ∧
    (s.getReg .byte .eax = s.regs.eax.extractLsb' 0 8 ∧ s.getReg .byte .ecx = s.regs.ecx.extractLsb' 0 8 ∧
      s.getReg .byte .edx = s.regs.edx.extractLsb' 0 8 ∧ s.getReg .byte .ebx = s.regs.ebx.extractLsb' 0 8) ∧
    (s.getReg .byte .esp = s.regs.eax.extractLsb' 8 8 ∧ s.getReg .byte .ebp = s.regs.ecx.extractLsb' 8 8 ∧
      s.getReg .byte .esi = s.regs.edx.extractLsb' 8 8 ∧ s.getReg .byte .edi = s.regs.ebx.extractLsb' 8 8) ∧
    (Reg.ofNum 0 = .eax ∧ Reg.ofNum 1 = .ecx ∧ Reg.ofNum 2 = .edx ∧ Reg.ofNum 3 = .ebx ∧ Reg.ofNum 4 = .esp ∧
      Reg.ofNum 5 = .ebp ∧ Reg.ofNum 6 = .esi ∧ Reg.ofNum 7 = .edi)

/-- A narrow write is read back, keeps every bit outside it and every other register (R13). -/
def Obligations.NarrowWriteKeepsOtherBits : Prop :=
  ∀ (s : State) (i j : Reg),
    (∀ v : Dword, (s.setReg .dword i v).getReg .dword j = if j = i then v else s.getReg .dword j) ∧
    (∀ v : Half, (s.setReg .word i v).getReg .dword j =
      if j = i then (s.getReg .dword i).extractLsb' 16 16 ++ v else s.getReg .dword j) ∧
    (∀ v : Byte, (s.setReg .byte i v).getReg .byte j = if j = i then v else s.getReg .byte j) ∧
    (∀ v : Byte, (i = .eax ∨ i = .ecx ∨ i = .edx ∨ i = .ebx) →
      (s.setReg .byte i v).getReg .dword j = if j = i then (s.getReg .dword i).extractLsb' 8 24 ++ v else s.getReg .dword j) ∧
    (∀ (v : Byte) (k : Reg), (i, k) ∈ [(Reg.esp, Reg.eax), (.ebp, .ecx), (.esi, .edx), (.edi, .ebx)] →
      (s.setReg .byte i v).getReg .dword j =
        if j = k then (s.getReg .dword k).extractLsb' 16 16 ++ (v ++ (s.getReg .dword k).extractLsb' 0 8)
        else s.getReg .dword j)

/-- EFLAGS as a word has every field at the bit R16 gives it and the reserved bits at their constants. -/
def Obligations.EflagsWordLayout : Prop :=
  ∀ f : Eflags,
    f.word.getLsbD 0 = f.CF ∧ f.word.getLsbD 1 = true ∧ f.word.getLsbD 2 = f.PF ∧ f.word.getLsbD 3 = false ∧
    f.word.getLsbD 4 = f.AF ∧ f.word.getLsbD 5 = false ∧ f.word.getLsbD 6 = f.ZF ∧ f.word.getLsbD 7 = f.SF ∧
    f.word.getLsbD 8 = f.TF ∧ f.word.getLsbD 9 = f.IF ∧ f.word.getLsbD 10 = f.DF ∧ f.word.getLsbD 11 = f.OF ∧
    f.word.extractLsb' 12 2 = f.IOPL ∧ f.word.getLsbD 14 = f.NT ∧ f.word.getLsbD 15 = false ∧ f.word.getLsbD 16 = f.RF ∧
    f.word.getLsbD 17 = f.VM ∧ f.word.extractLsb' 18 14 = (0 : BitVec 14) ∧ f.flags16 = f.word.extractLsb' 0 16

/-! OR. -/

/-- The three accumulator-immediate forms of OR complete, with result, flags and frame (R100 to R102, R106 to R109). -/
def Obligations.OrAccumulatorImmediateCompletes : Prop :=
  ∀ p : Prefixes,
    (∀ imm : Byte, OrRegSpec .byte .eax (fun _ => imm) (p.len + 2) (exec (.orAlImm8 p imm))) ∧
    (∀ imm : Half, OrRegSpec .word .eax (fun _ => imm) (p.len + 3) (exec (.orAxImm16 p imm))) ∧
    (∀ imm : Dword, OrRegSpec .dword .eax (fun _ => imm) (p.len + 5) (exec (.orEaxImm32 p imm)))

/-- The five r/m-immediate forms of OR with a register operand (R110 to R114); 83h sign-extends its immediate (R87). -/
def Obligations.OrImmediateToRegisterCompletes : Prop :=
  ∀ (p : Prefixes) (r : Reg),
    (∀ imm : Byte, OrRegSpec .byte r (fun _ => imm) (p.len + 3) (exec (.orRm8Imm8 p (.reg r) imm))) ∧
    (∀ imm : Half, OrRegSpec .word r (fun _ => imm) (p.len + 4) (exec (.orRm16Imm16 p (.reg r) imm))) ∧
    (∀ imm : Dword, OrRegSpec .dword r (fun _ => imm) (p.len + 6) (exec (.orRm32Imm32 p (.reg r) imm))) ∧
    (∀ imm : Byte, OrRegSpec .word r (fun _ => imm.signExtend 16) (p.len + 3) (exec (.orRm16Imm8 p (.reg r) imm))) ∧
    (∀ imm : Byte, OrRegSpec .dword r (fun _ => imm.signExtend 32) (p.len + 3) (exec (.orRm32Imm8 p (.reg r) imm)))

/-- The six register-register forms of OR (R115 to R120): 08 and 09 write the r/m register, 0A and 0B the reg register (C1). -/
def Obligations.OrRegisterToRegisterCompletes : Prop :=
  ∀ (p : Prefixes) (rm r : Reg),
    OrRegSpec .byte rm (fun s => s.getReg .byte r) (p.len + 2) (exec (.orRm8R8 p (.reg rm) r)) ∧
    OrRegSpec .word rm (fun s => s.getReg .word r) (p.len + 2) (exec (.orRm16R16 p (.reg rm) r)) ∧
    OrRegSpec .dword rm (fun s => s.getReg .dword r) (p.len + 2) (exec (.orRm32R32 p (.reg rm) r)) ∧
    OrRegSpec .byte r (fun s => s.getReg .byte rm) (p.len + 2) (exec (.orR8Rm8 p r (.reg rm))) ∧
    OrRegSpec .word r (fun s => s.getReg .word rm) (p.len + 2) (exec (.orR16Rm16 p r (.reg rm))) ∧
    OrRegSpec .dword r (fun s => s.getReg .dword rm) (p.len + 2) (exec (.orR32Rm32 p r (.reg rm)))

/-- The five r/m-immediate forms of OR with a memory destination, in every mode (R53, R106, R110 to R114). -/
def Obligations.OrImmediateToMemoryCompletes : Prop :=
  ∀ (p : Prefixes) (a : Addr),
    (∀ imm : Byte, OrMemSpec .byte p a (fun _ => imm) (p.len + 1 + (RM.mem a).len + 1) (exec (.orRm8Imm8 p (.mem a) imm))) ∧
    (∀ imm : Half, OrMemSpec .word p a (fun _ => imm) (p.len + 1 + (RM.mem a).len + 2) (exec (.orRm16Imm16 p (.mem a) imm))) ∧
    (∀ imm : Dword, OrMemSpec .dword p a (fun _ => imm) (p.len + 1 + (RM.mem a).len + 4) (exec (.orRm32Imm32 p (.mem a) imm))) ∧
    (∀ imm : Byte, OrMemSpec .word p a (fun _ => imm.signExtend 16) (p.len + 1 + (RM.mem a).len + 1)
      (exec (.orRm16Imm8 p (.mem a) imm))) ∧
    (∀ imm : Byte, OrMemSpec .dword p a (fun _ => imm.signExtend 32) (p.len + 1 + (RM.mem a).len + 1)
      (exec (.orRm32Imm8 p (.mem a) imm)))

/-- The three register-to-memory forms of OR, in every mode (R53, R106, R115 to R117). -/
def Obligations.OrRegisterToMemoryCompletes : Prop :=
  ∀ (p : Prefixes) (a : Addr) (r : Reg),
    OrMemSpec .byte p a (fun s => s.getReg .byte r) (p.len + 1 + (RM.mem a).len) (exec (.orRm8R8 p (.mem a) r)) ∧
    OrMemSpec .word p a (fun s => s.getReg .word r) (p.len + 1 + (RM.mem a).len) (exec (.orRm16R16 p (.mem a) r)) ∧
    OrMemSpec .dword p a (fun s => s.getReg .dword r) (p.len + 1 + (RM.mem a).len) (exec (.orRm32R32 p (.mem a) r))

/-- The three memory-to-register forms of OR, in every mode: the register is written, memory only read (R106, R118 to R120; C1). -/
def Obligations.OrMemoryToRegisterCompletes : Prop :=
  ∀ (p : Prefixes) (a : Addr) (r : Reg),
    OrLoadSpec .byte p r a (p.len + 1 + (RM.mem a).len) (exec (.orR8Rm8 p r (.mem a))) ∧
    OrLoadSpec .word p r a (p.len + 1 + (RM.mem a).len) (exec (.orR16Rm16 p r (.mem a))) ∧
    OrLoadSpec .dword p r a (p.len + 1 + (RM.mem a).len) (exec (.orR32Rm32 p r (.mem a)))

/-- The eleven forms of OR with a memory operand in real-address mode complete whenever the operand's bytes lie at offsets up to FFFFh
(R47, R53, R106, R110 to R120) and, of the eight that store, none of the stored bytes is a program byte ahead of the instruction (R208).
That nothing is a program byte where no range is given (log 15), and the CS base the range is taken from (log 34), are the model's choice. -/
def Obligations.OrMemoryRealModeCompletes : Prop :=
  ∀ (p : Prefixes) (a : Addr) (r : Reg),
    (∀ imm : Byte, OrRealMemSpec .byte p a (fun _ => imm) (p.len + 1 + (RM.mem a).len + 1) (exec (.orRm8Imm8 p (.mem a) imm))) ∧
    (∀ imm : Half, OrRealMemSpec .word p a (fun _ => imm) (p.len + 1 + (RM.mem a).len + 2) (exec (.orRm16Imm16 p (.mem a) imm))) ∧
    (∀ imm : Dword, OrRealMemSpec .dword p a (fun _ => imm) (p.len + 1 + (RM.mem a).len + 4)
      (exec (.orRm32Imm32 p (.mem a) imm))) ∧
    (∀ imm : Byte, OrRealMemSpec .word p a (fun _ => imm.signExtend 16) (p.len + 1 + (RM.mem a).len + 1)
      (exec (.orRm16Imm8 p (.mem a) imm))) ∧
    (∀ imm : Byte, OrRealMemSpec .dword p a (fun _ => imm.signExtend 32) (p.len + 1 + (RM.mem a).len + 1)
      (exec (.orRm32Imm8 p (.mem a) imm))) ∧
    OrRealMemSpec .byte p a (fun s => s.getReg .byte r) (p.len + 1 + (RM.mem a).len) (exec (.orRm8R8 p (.mem a) r)) ∧
    OrRealMemSpec .word p a (fun s => s.getReg .word r) (p.len + 1 + (RM.mem a).len) (exec (.orRm16R16 p (.mem a) r)) ∧
    OrRealMemSpec .dword p a (fun s => s.getReg .dword r) (p.len + 1 + (RM.mem a).len) (exec (.orRm32R32 p (.mem a) r)) ∧
    OrRealLoadSpec .byte p r a (p.len + 1 + (RM.mem a).len) (exec (.orR8Rm8 p r (.mem a))) ∧
    OrRealLoadSpec .word p r a (p.len + 1 + (RM.mem a).len) (exec (.orR16Rm16 p r (.mem a))) ∧
    OrRealLoadSpec .dword p r a (p.len + 1 + (RM.mem a).len) (exec (.orR32Rm32 p r (.mem a)))

/-- A refused store stops each of the eight memory-destination forms of OR by the refusal's name (R208, D15, D18). Which stores are those
of D18 is the model's choice (log 14): page tables with paging on, the TSS with PE = 1 and TR loaded, no descriptor table. -/
def Obligations.OrRefusedStoresStop : Prop :=
  ∀ (p : Prefixes) (a : Addr),
    (∀ imm : Byte, OrMemRefusedSpec .byte p a (p.len + 1 + (RM.mem a).len + 1) (exec (.orRm8Imm8 p (.mem a) imm))) ∧
    (∀ imm : Half, OrMemRefusedSpec .word p a (p.len + 1 + (RM.mem a).len + 2) (exec (.orRm16Imm16 p (.mem a) imm))) ∧
    (∀ imm : Dword, OrMemRefusedSpec .dword p a (p.len + 1 + (RM.mem a).len + 4) (exec (.orRm32Imm32 p (.mem a) imm))) ∧
    (∀ imm : Byte, OrMemRefusedSpec .word p a (p.len + 1 + (RM.mem a).len + 1) (exec (.orRm16Imm8 p (.mem a) imm))) ∧
    (∀ imm : Byte, OrMemRefusedSpec .dword p a (p.len + 1 + (RM.mem a).len + 1) (exec (.orRm32Imm8 p (.mem a) imm))) ∧
    (∀ r : Reg, OrMemRefusedSpec .byte p a (p.len + 1 + (RM.mem a).len) (exec (.orRm8R8 p (.mem a) r))) ∧
    (∀ r : Reg, OrMemRefusedSpec .word p a (p.len + 1 + (RM.mem a).len) (exec (.orRm16R16 p (.mem a) r))) ∧
    (∀ r : Reg, OrMemRefusedSpec .dword p a (p.len + 1 + (RM.mem a).len) (exec (.orRm32R32 p (.mem a) r)))

/-- A store is refused exactly when one of its bytes is a program byte ahead of the storing instruction (R208), else of the page directory
or a page table with paging on, else of the TSS with PE = 1 and TR loaded (D18). Reading D18 so is the model's choice (log 14), and so is
that nothing counts as program where no range is given (log 15) and that the range is taken from the CS base of the moment (log 34). -/
def Obligations.StoreRefusedExactlyAhead : Prop :=
  ∀ (s : State) (len : Nat) (pas : List Dword),
    (s.HitsProgramAhead len pas ↔ s.storeRefusal len pas = some .storeIntoProgram) ∧
    (¬ s.HitsProgramAhead len pas ∧ s.HitsPageTables pas ↔ s.storeRefusal len pas = some .storeIntoPageTable) ∧
    (¬ s.HitsProgramAhead len pas ∧ ¬ s.HitsPageTables pas ∧ s.HitsTss pas ↔ s.storeRefusal len pas = some .storeIntoTss) ∧
    (¬ s.HitsProgramAhead len pas ∧ ¬ s.HitsPageTables pas ∧ ¬ s.HitsTss pas ↔ s.storeRefusal len pas = none)

/-- OR of a register with itself keeps the register and tests it: ZF = 1 exactly for zero, SF the top bit (R120, R121 d, g, h). -/
def Obligations.OrWithItselfTests : Prop :=
  ∀ (p : Prefixes) (r : Reg) (s : State), s.canAdvance (p.len + 2) →
    (∃ t, exec (.orRm8R8 p (.reg r) r) s = .next t ∧ t.regs = s.regs ∧ t.eflags.ZF = decide (s.getReg .byte r = 0) ∧
      t.eflags.SF = (s.getReg .byte r).getLsbD 7) ∧
    (∃ t, exec (.orRm16R16 p (.reg r) r) s = .next t ∧ t.regs = s.regs ∧ t.eflags.ZF = decide (s.getReg .word r = 0) ∧
      t.eflags.SF = (s.getReg .word r).getLsbD 15) ∧
    (∃ t, exec (.orRm32R32 p (.reg r) r) s = .next t ∧ t.regs = s.regs ∧ t.eflags.ZF = decide (s.getReg .dword r = 0) ∧
      t.eflags.SF = (s.getReg .dword r).getLsbD 31)

/-- 83h with an immediate of 80h or more sets every bit above bit 7 of the destination, so SF = 1 and ZF = 0; with one below 80h it
leaves bits above bit 6 as they were (R113, R114 corner cases). -/
def Obligations.SignExtendedImmediateFillsHighBits : Prop :=
  ∀ (p : Prefixes) (r : Reg) (imm : Byte) (s : State), s.canAdvance (p.len + 3) →
    ∃ t u, exec (.orRm16Imm8 p (.reg r) imm) s = .next t ∧ exec (.orRm32Imm8 p (.reg r) imm) s = .next u ∧
      (0x80 ≤ imm.toNat → (t.getReg .word r).extractLsb' 8 8 = (0xFF : Byte) ∧ t.eflags.SF = true ∧ t.eflags.ZF = false ∧
        (u.getReg .dword r).extractLsb' 8 24 = (0xFFFFFF : BitVec 24) ∧ u.eflags.SF = true ∧ u.eflags.ZF = false) ∧
      (imm.toNat < 0x80 → (t.getReg .word r).extractLsb' 7 9 = (s.getReg .word r).extractLsb' 7 9 ∧
        (u.getReg .dword r).extractLsb' 7 25 = (s.getReg .dword r).extractLsb' 7 25)

/-- OR with register and immediate operands alone raises no exception in any mode (R103, R170). -/
def Obligations.OrWithoutMemoryNeverFaults : Prop :=
  ∀ (p : Prefixes) (r q : Reg) (b : Byte) (h : Half) (v : Dword) (s : State) (f : Fault),
    exec (.orAlImm8 p b) s ≠ .fault f ∧ exec (.orAxImm16 p h) s ≠ .fault f ∧ exec (.orEaxImm32 p v) s ≠ .fault f ∧
    exec (.orRm8Imm8 p (.reg r) b) s ≠ .fault f ∧ exec (.orRm16Imm16 p (.reg r) h) s ≠ .fault f ∧
    exec (.orRm32Imm32 p (.reg r) v) s ≠ .fault f ∧ exec (.orRm16Imm8 p (.reg r) b) s ≠ .fault f ∧
    exec (.orRm32Imm8 p (.reg r) b) s ≠ .fault f ∧ exec (.orRm8R8 p (.reg r) q) s ≠ .fault f ∧
    exec (.orRm16R16 p (.reg r) q) s ≠ .fault f ∧ exec (.orRm32R32 p (.reg r) q) s ≠ .fault f ∧
    exec (.orR8Rm8 p r (.reg q)) s ≠ .fault f ∧ exec (.orR16Rm16 p r (.reg q)) s ≠ .fault f ∧
    exec (.orR32Rm32 p r (.reg q)) s ≠ .fault f

/-- An instruction that would move EIP to 2^32 or beyond is refused (R15, D20): every form, once its operands and its port are found
legal; of a repeated OUTS the step that ends it (log 21, log 22). -/
def Obligations.EipPastTopRefused : Prop :=
  ∀ (p : Prefixes) (s : State),
    (∀ (r q : Reg) (b : Byte) (h : Half) (v : Dword), ∀ i ∈ orRegisterForms p r q b h v, s.pastTop i.len →
      exec i s = .refused .eipPastTop) ∧
    (∀ (a : Addr) (r : Reg) (b : Byte) (h : Half) (v : Dword), ∀ f ∈ orMemoryForms p a r b h v, ∀ (s1 : State) (pas : List Dword),
      s.openOperand (p.segFor a.defaultSeg) (s.offsetOf a) f.1 .write = .ok pas s1 → s1.storeRefusal f.2.len pas = none →
      s.pastTop f.2.len → exec f.2 s = .refused .eipPastTop) ∧
    (∀ (a : Addr) (r : Reg), ∀ f ∈ orLoadForms p a r, ∀ (s1 : State) (v : BitVec f.1.bits),
      s.memRead (p.segFor a.defaultSeg) (s.offsetOf a) f.1 = .ok v s1 → s.pastTop f.2.len → exec f.2 s = .refused .eipPastTop) ∧
    (∀ n : Byte, ∀ f ∈ outImmForms p n, ∀ s1 : State, s.ioCheck (n.setWidth 16) f.1.bytes = .ok () s1 → s.pastTop f.2.len →
      exec f.2 s = .refused .eipPastTop) ∧
    (∀ f ∈ outDxForms p, ∀ s1 : State, s.ioCheck s.portDx f.1.bytes = .ok () s1 → s.portDx.toNat + f.1.bytes ≤ 65536 →
      s.pastTop f.2.len → exec f.2 s = .refused .eipPastTop) ∧
    (∀ f ∈ outsForms p, ∀ (s1 s2 : State) (v : BitVec f.1.bits), OutsReady f.1 p s s1 s2 v → s.pastTop f.2.len →
      exec f.2 s = .refused .eipPastTop) ∧
    (∀ f ∈ repOutsForms p, s.pastTop f.2.len →
      (s.repCount p = 0 → exec f.2 s = .refused .eipPastTop) ∧
      (∀ (s1 s2 : State) (v : BitVec f.1.bits), s.repCount p = 1 → OutsReady f.1 p s s1 s2 v → exec f.2 s = .refused .eipPastTop))

/-! Operand addresses. -/

/-- The 16-bit effective address is the exact sum of the low register halves and the sign-extended disp8 or the disp16, modulo 2^16
(R81, R82). -/
def Obligations.EffectiveAddress16Wraps : Prop :=
  ∀ (s : State) (a : Addr), a.size = .s16 →
    ((s.offsetOf a).toNat : Int) = exactSum16 s a % 65536 ∧ (s.offsetOf a).toNat < 65536

/-- The 32-bit effective address is the exact sum of base, scaled index and displacement, modulo 2^32 (R83, R84, R85). -/
def Obligations.EffectiveAddress32Wraps : Prop :=
  ∀ (s : State) (a : Addr), a.size = .s32 → ((s.offsetOf a).toNat : Int) = exactSum32 s a % 2 ^ 32

/-- A memory operand defaults to SS exactly when its base is BP, EBP or ESP, else to DS; a segment prefix replaces the default
(R26, R77, R81, R83, R84). -/
def Obligations.DefaultSegmentFollowsBase : Prop :=
  (∀ a : Addr, a.defaultSeg = .ss ↔
    (∃ d, a = .based16 .bpSi d) ∨ (∃ d, a = .based16 .bpDi d) ∨ (∃ d, a = .based16 .bp d) ∨
    (∃ d, a = .based32 .ebp d) ∨ (∃ d, a = .based32 .esp d) ∨ (∃ ix d, a = .sib .ebp ix d) ∨ (∃ ix d, a = .sib .esp ix d)) ∧
  (∀ a : Addr, a.defaultSeg = .ss ∨ a.defaultSeg = .ds) ∧
  (∀ (o z : Bool) (g dflt : SegReg), (Prefixes.mk o z (some g)).segFor dflt = g ∧ (Prefixes.mk o z none).segFor dflt = dflt)

/-! Memory. -/

/-- Data in memory is little-endian: each byte of a stored value is at its own address, and a narrow read sees it there (R40). -/
def Obligations.StoredBytesAreLittleEndian : Prop :=
  ∀ (s : State) (a v : Dword) (h : Half),
    (∀ i < 4, (s.writeAt (addrRange a 4) (leBytes v 4)).readPhys (a + BitVec.ofNat 32 i) = v.extractLsb' (8 * i) 8) ∧
    (s.writeAt (addrRange a 4) (leBytes v 4)).readAt .dword (addrRange a 4) = v ∧
    (s.writeAt (addrRange a 4) (leBytes v 4)).readAt .byte [a] = v.extractLsb' 0 8 ∧
    (∀ i < 2, (s.writeAt (addrRange a 2) (leBytes h 2)).readPhys (a + BitVec.ofNat 32 i) = h.extractLsb' (8 * i) 8) ∧
    (s.writeAt (addrRange a 2) (leBytes h 2)).readAt .word (addrRange a 2) = h ∧
    (∀ b : Byte, (s.writeAt [a] (leBytes b 1)).readPhys a = b)

/-- The segment check outside protected mode: the sum of offset and width without wrap, against FFFFh (R46, R47, R82), and which
exception (R174, R175; with `real_ss_vector` 12 the stack ones, C10). -/
def Obligations.RealModeOffsetBound : Prop :=
  ∀ (s : State) (seg : SegReg) (off : Dword) (w : Width) (kind : AccessKind), s.mode ≠ .prot →
    (off.toNat + w.bytes ≤ 65536 → s.segCheck seg off w.bytes kind = .ok ((s.segs.get seg).base + off)) ∧
    (65536 < off.toNat + w.bytes → s.launch.realSsVector = .v13 ∨ seg ≠ .ss →
      s.segCheck seg off w.bytes kind = .error (if s.mode = .real then .interrupt13 else .gp0)) ∧
    (65536 < off.toNat + w.bytes → s.launch.realSsVector = .v12 → seg = .ss →
      s.segCheck seg off w.bytes kind = .error (if s.mode = .real then .interrupt12 else .ss0))

/-- The segment check in protected mode (R46, R48): when it passes and with which address, that a null selector, a write without the right
and a read without the right raise #GP(0) through every segment, SS too, and that a limit violation raises #GP(0), or #SS(0) through SS.
`last` is not truncated. -/
def Obligations.ProtectedSegmentCheck : Prop :=
  ∀ (s : State) (seg : SegReg) (off : Dword) (w : Width) (kind : AccessKind), s.mode = .prot →
    ((∃ lin, s.segCheck seg off w.bytes kind = .ok lin) ↔
      (s.segs.get seg).valid = true ∧ (kind = .write → (s.segs.get seg).writable = true) ∧
      (kind = .read → (s.segs.get seg).readable = true) ∧
      ((s.segs.get seg).expandDown = false → off.toNat + w.bytes ≤ (s.segs.get seg).limit.toNat + 1) ∧
      ((s.segs.get seg).expandDown = true → (s.segs.get seg).limit.toNat < off.toNat ∧
        off.toNat + w.bytes ≤ (if (s.segs.get seg).big then 2 ^ 32 else 2 ^ 16))) ∧
    (∀ lin, s.segCheck seg off w.bytes kind = .ok lin → lin = (s.segs.get seg).base + off) ∧
    (∀ e, s.segCheck seg off w.bytes kind = .error e → e = .gp0 ∨
      (e = .ss0 ∧ seg = .ss ∧ (s.segs.get seg).valid = true ∧ (kind = .write → (s.segs.get seg).writable = true) ∧
        (kind = .read → (s.segs.get seg).readable = true))) ∧
    ((s.segs.get seg).valid = false → s.segCheck seg off w.bytes kind = .error .gp0) ∧
    ((s.segs.get seg).valid = true → kind = .read → (s.segs.get seg).readable = false →
      s.segCheck seg off w.bytes kind = .error .gp0) ∧
    ((s.segs.get seg).valid = true → kind = .write → (s.segs.get seg).writable = false →
      s.segCheck seg off w.bytes kind = .error .gp0) ∧
    ((s.segs.get seg).valid = true → (kind = .write → (s.segs.get seg).writable = true) →
      (kind = .read → (s.segs.get seg).readable = true) → (¬ ∃ lin, s.segCheck seg off w.bytes kind = .ok lin) →
      s.segCheck seg off w.bytes kind = .error (if seg = .ss then .ss0 else .gp0))

/-- `PageTranslate` (R49, R50): identity without paging; not present, denied and mapped with it; the fault code's three stated bits; every
byte of memory after it: A set in both entries, D in the page-table entry for a write alone, every other bit as before. -/
def Obligations.PageTranslateWalks : Prop :=
  ∀ (s : State) (lin : Dword) (kind : AccessKind) (user : Bool),
    (s.paging = false → s.pageTranslate lin kind user = .ok lin s) ∧
    (s.paging = true → ¬ s.pagePresent lin → ∃ code : Half, s.pageTranslate lin kind user = .raised (.pf code lin) ∧
      code.getLsbD 0 = false ∧ code.getLsbD 1 = decide (kind = .write) ∧ code.getLsbD 2 = user) ∧
    (s.paging = true → s.pagePresent lin → ¬ s.pageAllowed lin kind user → ∃ code : Half,
      s.pageTranslate lin kind user = .raised (.pf code lin) ∧
      code.getLsbD 0 = true ∧ code.getLsbD 1 = decide (kind = .write) ∧ code.getLsbD 2 = user) ∧
    (s.paging = true → s.pagePresent lin → s.pageAllowed lin kind user → ∃ t : State,
      s.pageTranslate lin kind user = .ok (s.mappedTo lin) t ∧ t = { s with mem := t.mem } ∧
      (∀ a : Nat, Memory.read t.mem a = Memory.read s.mem a |||
        (if a = ((s.cr3 &&& 0xFFFFF000) + BitVec.ofNat 32 (4 * (lin.toNat / 2 ^ 22))).toNat then 0x20 else 0) |||
        (if a = (s.pteAddrOf lin).toNat then (if kind = .write then 0x60 else 0x20) else 0)))

/-- Opening an operand (R51 to R53) sets A and D bits at most, and without paging answers the consecutive addresses from the linear
address on and changes nothing (R49). -/
def Obligations.OpeningOperandOnlyMarks : Prop :=
  ∀ (s s1 : State) (seg : SegReg) (off : Dword) (w : Width) (kind : AccessKind) (pas : List Dword),
    (s.openOperand seg off w kind = .ok pas s1 → OnlyMarks s s1 ∧ pas.length = w.bytes) ∧
    (∀ lin, s.paging = false → s.segCheck seg off w.bytes kind = .ok lin →
      s.openOperand seg off w kind = .ok (addrRange lin w.bytes) s)

/-- With paging on, an operand whose segment check passes and whose every byte's page is present and allowed opens at the mapped
addresses, although each byte's translation sets A and D bits before the next is walked (R50 to R53). -/
def Obligations.MappedOperandOpens : Prop :=
  ∀ (s : State) (seg : SegReg) (off lin : Dword) (w : Width) (kind : AccessKind), s.paging = true →
    s.segCheck seg off w.bytes kind = .ok lin →
    (∀ a ∈ addrRange lin w.bytes, s.pagePresent a ∧ s.pageAllowed a kind s.user) →
    ∃ s1, s.openOperand seg off w kind = .ok ((addrRange lin w.bytes).map s.mappedTo) s1 ∧ OnlyMarks s s1

/-! OUT. -/

/-- The six forms of OUT complete (R130, R131, R134 to R140): one event, EIP, nothing else. -/
def Obligations.OutWritesItsPort : Prop :=
  ∀ p : Prefixes,
    (∀ n : Byte, OutSpec .byte (fun _ => n.setWidth 16) (fun s => s.getReg .byte .eax) (p.len + 2) (exec (.outImm8Al p n))) ∧
    (∀ n : Byte, OutSpec .word (fun _ => n.setWidth 16) (fun s => s.getReg .word .eax) (p.len + 2) (exec (.outImm8Ax p n))) ∧
    (∀ n : Byte, OutSpec .dword (fun _ => n.setWidth 16) (fun s => s.getReg .dword .eax) (p.len + 2) (exec (.outImm8Eax p n))) ∧
    OutSpec .byte (fun s => s.regs.edx.setWidth 16) (fun s => s.getReg .byte .eax) (p.len + 1) (exec (.outDxAl p)) ∧
    OutSpec .word (fun s => s.regs.edx.setWidth 16) (fun s => s.getReg .word .eax) (p.len + 1) (exec (.outDxAx p)) ∧
    OutSpec .dword (fun s => s.regs.edx.setWidth 16) (fun s => s.getReg .dword .eax) (p.len + 1) (exec (.outDxEax p))

/-- The six forms of OUT in real-address mode, and in protected mode with CPL at most IOPL, answer exactly the state before with one event
more and EIP advanced (R131, R132, R134 to R140). -/
def Obligations.OutUncheckedCompletes : Prop :=
  ∀ p : Prefixes,
    (∀ n : Byte,
      OutUncheckedSpec .byte (fun _ => n.setWidth 16) (fun s => s.getReg .byte .eax) (p.len + 2) (exec (.outImm8Al p n)) ∧
      OutUncheckedSpec .word (fun _ => n.setWidth 16) (fun s => s.getReg .word .eax) (p.len + 2) (exec (.outImm8Ax p n)) ∧
      OutUncheckedSpec .dword (fun _ => n.setWidth 16) (fun s => s.getReg .dword .eax) (p.len + 2) (exec (.outImm8Eax p n))) ∧
    OutUncheckedSpec .byte (fun s => s.regs.edx.setWidth 16) (fun s => s.getReg .byte .eax) (p.len + 1) (exec (.outDxAl p)) ∧
    OutUncheckedSpec .word (fun s => s.regs.edx.setWidth 16) (fun s => s.getReg .word .eax) (p.len + 1) (exec (.outDxAx p)) ∧
    OutUncheckedSpec .dword (fun s => s.regs.edx.setWidth 16) (fun s => s.getReg .dword .eax) (p.len + 1) (exec (.outDxEax p))

/-- The permission bits are consulted in exactly two situations: protected mode with CPL above IOPL, and virtual 8086 mode (R132). When
they are not, the check passes and changes nothing; when they are, it passes on `IOPermission` and raises #GP(0) without it. -/
def Obligations.PermissionConsultedExactlyWhen : Prop :=
  ∀ s : State,
    (s.ioConsults = true ↔ (s.pe = true ∧ s.eflags.VM = false ∧ s.eflags.IOPL.toNat < s.cpl.toNat) ∨
      (s.pe = true ∧ s.eflags.VM = true)) ∧
    (∀ (port : Half) (n : Nat), s.ioConsults = false → s.ioCheck port n = .ok () s) ∧
    (∀ (port : Half) (n : Nat) (b : Bool) (s1 : State), s.ioConsults = true → s.ioPermission port n = .ok b s1 →
      s.ioCheck port n = if b = true then .ok () s1 else .raised .gp0)

/-- In real-address mode, and in protected mode with CPL at most IOPL, OUT raises no exception (R134, R141 a, b). -/
def Obligations.OutNeverFaultsUnchecked : Prop :=
  ∀ (p : Prefixes) (n : Byte) (s : State) (f : Fault),
    s.pe = false ∨ (s.eflags.VM = false ∧ s.cpl.toNat ≤ s.eflags.IOPL.toNat) →
    exec (.outImm8Al p n) s ≠ .fault f ∧ exec (.outImm8Ax p n) s ≠ .fault f ∧ exec (.outImm8Eax p n) s ≠ .fault f ∧
    exec (.outDxAl p) s ≠ .fault f ∧ exec (.outDxAx p) s ≠ .fault f ∧ exec (.outDxEax p) s ≠ .fault f

/-- What OUT does when the bits are not consulted does not depend on TR, hence on no TSS (R141 a, b). -/
def Obligations.OutUncheckedIgnoresTaskRegister : Prop :=
  ∀ (p : Prefixes) (n : Byte) (s t : State) (tr : TaskRegister), s.ioConsults = false →
    (exec (.outImm8Al p n) s = .next t → exec (.outImm8Al p n) { s with tr := tr } = .next { t with tr := tr }) ∧
    (exec (.outImm8Ax p n) s = .next t → exec (.outImm8Ax p n) { s with tr := tr } = .next { t with tr := tr }) ∧
    (exec (.outImm8Eax p n) s = .next t → exec (.outImm8Eax p n) { s with tr := tr } = .next { t with tr := tr }) ∧
    (exec (.outDxAl p) s = .next t → exec (.outDxAl p) { s with tr := tr } = .next { t with tr := tr }) ∧
    (exec (.outDxAx p) s = .next t → exec (.outDxAx p) { s with tr := tr } = .next { t with tr := tr }) ∧
    (exec (.outDxEax p) s = .next t → exec (.outDxEax p) { s with tr := tr } = .next { t with tr := tr })

/-- A permission bit that is 1 makes every OUT and every OUTS raise #GP(0), with no port write and no other change (R132, R134, R141 d,
R154, R155, R181); a repeated OUTS does so in an iteration with a nonzero count (R165 h). That with paging on the A bits set by the lookup
are dropped too is the model's choice, which R181 permits (log 12). -/
def Obligations.DeniedPortRaisesGeneralProtection : Prop :=
  ∀ p : Prefixes,
    (∀ n : Byte, IoDeniedSpec (fun _ => n.setWidth 16) 1 (exec (.outImm8Al p n)) ∧
      IoDeniedSpec (fun _ => n.setWidth 16) 2 (exec (.outImm8Ax p n)) ∧
      IoDeniedSpec (fun _ => n.setWidth 16) 4 (exec (.outImm8Eax p n))) ∧
    IoDeniedSpec State.portDx 1 (exec (.outDxAl p)) ∧ IoDeniedSpec State.portDx 2 (exec (.outDxAx p)) ∧
    IoDeniedSpec State.portDx 4 (exec (.outDxEax p)) ∧
    IoDeniedSpec State.portDx 1 (exec (.outsDxRm8 p)) ∧ IoDeniedSpec State.portDx 2 (exec (.outsDxRm16 p)) ∧
    IoDeniedSpec State.portDx 4 (exec (.outsDxRm32 p)) ∧
    IoDeniedSpec State.portDx 1 (exec (.outsb p)) ∧ IoDeniedSpec State.portDx 2 (exec (.outsw p)) ∧
    IoDeniedSpec State.portDx 4 (exec (.outsd p)) ∧
    (∀ s s1 : State, s.repCount p ≠ 0 → s.launch.deliver = .terminal → s.ioConsults = true →
      (s.ioPermission s.portDx 1 = .ok false s1 → exec (.repOutsb p) s = .fault (.exception .gp0 s)) ∧
      (s.ioPermission s.portDx 2 = .ok false s1 → exec (.repOutsw p) s = .fault (.exception .gp0 s)) ∧
      (s.ioPermission s.portDx 4 = .ok false s1 → exec (.repOutsd p) s = .fault (.exception .gp0 s)))

/-- The two-byte lookup of R30 is the test of the bit of every port written (R29): permitted exactly when all of them are 0; a 286 TSS, or
a bitmap that ends before the second byte, permits nothing. Without paging. That iobase + (p >> 3) does not wrap at 16 bits is the model's
choice (log 32). -/
def Obligations.PermissionTestsEveryPortBit : Prop :=
  ∀ (s : State) (port : Half) (w : Width), s.paging = false →
    (s.tr.type = .tss286 → s.ioPermission port w.bytes = .ok false s) ∧
    (s.tr.type = .tss386 → s.tr.limit.toNat < s.ioBase + port.toNat / 8 + 1 → s.ioPermission port w.bytes = .ok false s) ∧
    (s.tr.type = .tss386 → s.ioBase + port.toNat / 8 + 1 ≤ s.tr.limit.toNat →
      ∃ b : Bool, s.ioPermission port w.bytes = .ok b s ∧
        (b = true ↔ ∀ j < w.bytes, s.permissionBit (port.toNat + j) = false))

/-- A port write that would pass port 65535 is refused (R31, D9): by OUT to DX once permission is given, by OUTS under either spelling and
by REP OUTS with a nonzero count once the item is read too (the order is log 21). A byte never passes it, nor does an immediate port. -/
def Obligations.PortPastTopRefused : Prop :=
  ∀ (p : Prefixes) (s s1 : State),
    (∀ f ∈ outDxForms p, s.ioCheck s.portDx f.1.bytes = .ok () s1 → 65536 < s.portDx.toNat + f.1.bytes →
      exec f.2 s = .refused .portPastTop) ∧
    (∀ f ∈ outsForms p ++ repOutsForms p, ∀ (s2 : State) (v : BitVec f.1.bits), (f ∈ repOutsForms p → s.repCount p ≠ 0) →
      s.ioCheck s.portDx f.1.bytes = .ok () s1 → s1.memRead (p.segFor .ds) (s.sourceIndex p) f.1 = .ok v s2 →
      65536 < s.portDx.toNat + f.1.bytes → exec f.2 s = .refused .portPastTop)

/-- A port event covers consecutive byte ports, least significant byte at the lowest (R31). -/
def Obligations.PortEventBytes : Prop :=
  ∀ (port : Half) (b : Byte) (h : Half) (v : Dword),
    IoEvent.bytes ⟨port, .byte, b.setWidth 32⟩ = [(port.toNat, b)] ∧
    IoEvent.bytes ⟨port, .word, h.setWidth 32⟩ = [(port.toNat, h.extractLsb' 0 8), (port.toNat + 1, h.extractLsb' 8 8)] ∧
    IoEvent.bytes ⟨port, .dword, v⟩ =
      [(port.toNat, v.extractLsb' 0 8), (port.toNat + 1, v.extractLsb' 8 8), (port.toNat + 2, v.extractLsb' 16 8),
        (port.toNat + 3, v.extractLsb' 24 8)]

/-! OUTS. -/

/-- The six rows of OUTS complete (R150 to R161): one item to the port in DX, the index moved, EIP advanced, nothing else. -/
def Obligations.OutsTransfersOneItem : Prop :=
  ∀ p : Prefixes,
    OutsSpec .byte p (p.len + 1) (exec (.outsDxRm8 p)) ∧ OutsSpec .word p (p.len + 1) (exec (.outsDxRm16 p)) ∧
    OutsSpec .dword p (p.len + 1) (exec (.outsDxRm32 p)) ∧
    OutsSpec .byte p (p.len + 1) (exec (.outsb p)) ∧ OutsSpec .word p (p.len + 1) (exec (.outsw p)) ∧
    OutsSpec .dword p (p.len + 1) (exec (.outsd p))

/-- The six rows of OUTS in real-address mode complete whenever the item lies at offsets up to FFFFh and the port inside the I/O space
(R47, R150 to R161). -/
def Obligations.OutsRealModeCompletes : Prop :=
  ∀ p : Prefixes,
    OutsRealSpec .byte p (p.len + 1) (exec (.outsDxRm8 p)) ∧ OutsRealSpec .word p (p.len + 1) (exec (.outsDxRm16 p)) ∧
    OutsRealSpec .dword p (p.len + 1) (exec (.outsDxRm32 p)) ∧
    OutsRealSpec .byte p (p.len + 1) (exec (.outsb p)) ∧ OutsRealSpec .word p (p.len + 1) (exec (.outsw p)) ∧
    OutsRealSpec .dword p (p.len + 1) (exec (.outsd p))

/-- The source index and its movement (R18, R151, R155 steps 4, 7, 8; R165 a, b, c): SI or ESI by AddressSize, up by the width when DF = 0
and down when DF = 1, modulo 2^16 with the upper half kept or modulo 2^32; no other register changes. -/
def Obligations.SourceIndexMoves : Prop :=
  ∀ (s : State) (w : Width) (p : Prefixes),
    (s.addressSize p = .s16 → s.sourceIndex p = (s.regs.esi.setWidth 16).setWidth 32 ∧
      (s.addSized (s.addressSize p) .esi (s.incDec w)).regs = s.regs.set32 .esi (s.regs.esi.extractLsb' 16 16 ++
        (if s.eflags.DF = true then s.regs.esi.setWidth 16 - BitVec.ofNat 16 w.bytes
          else s.regs.esi.setWidth 16 + BitVec.ofNat 16 w.bytes))) ∧
    (s.addressSize p = .s32 → s.sourceIndex p = s.regs.esi ∧
      (s.addSized (s.addressSize p) .esi (s.incDec w)).regs = s.regs.set32 .esi
        (if s.eflags.DF = true then s.regs.esi - BitVec.ofNat 32 w.bytes else s.regs.esi + BitVec.ofNat 32 w.bytes))

/-- One step of each REP OUTS (R164): a zero count moves EIP alone; otherwise one item, the count one less, EIP moved at count zero. -/
def Obligations.RepOutsOneIteration : Prop :=
  ∀ p : Prefixes,
    RepOutsSpec .byte p (p.len + 2) (exec (.repOutsb p)) ∧ RepOutsSpec .word p (p.len + 2) (exec (.repOutsw p)) ∧
    RepOutsSpec .dword p (p.len + 2) (exec (.repOutsd p))

/-- A whole REP OUTS in real-address mode performs exactly its count of transfers in order and ends (R164, R165, R213). -/
def Obligations.RepOutsRunsToCompletion : Prop :=
  ∀ p : Prefixes,
    RepOutsRunSpec .byte p (p.len + 2) (.repOutsb p) ∧ RepOutsRunSpec .word p (p.len + 2) (.repOutsw p) ∧
    RepOutsRunSpec .dword p (p.len + 2) (.repOutsd p)

/-! Exceptions. -/

/-- An instruction that ends in an exception leaves every piece of state as before it, CR2 alone written, and by #PF alone (R170, R181).
That with paging on memory is without the A and D bits the operand's translation set is the model's choice, which R181 permits (log 12). -/
def Obligations.ExceptionLeavesState : Prop :=
  ∀ (i : Instr) (s t : State) (e : Exc), exec i s = .fault (.exception e t) →
    t.regs = s.regs ∧ t.eip = s.eip ∧ t.eflags = s.eflags ∧ t.cr0 = s.cr0 ∧ t.cr3 = s.cr3 ∧ t.cpl = s.cpl ∧ t.segs = s.segs ∧
    t.csDefaultSize = s.csDefaultSize ∧ t.tr = s.tr ∧ t.debugRegs = s.debugRegs ∧ t.mem = s.mem ∧ t.io = s.io ∧
    t.delivered = s.delivered ∧ t.launch = s.launch ∧
    ((∀ code lin, e ≠ .pf code lin) → t.cr2 = s.cr2) ∧ (∀ code lin, e = .pf code lin → t.cr2 = lin)

/-- Which exceptions each mode has (R103 to R105, R163, R170, R174, R175): in real-address mode Interrupt 13 alone, never #PF; in virtual
8086 mode #GP(0) and #PF; #SS(0) in protected mode. Interrupt 12, and #SS(0) in virtual 8086 mode, only when `real_ss_vector` is 12. -/
def Obligations.ExceptionsByMode : Prop :=
  ∀ (i : Instr) (s t : State) (e : Exc), exec i s = .fault (.exception e t) →
    (s.mode = .real → e = .interrupt13 ∨ (e = .interrupt12 ∧ s.launch.realSsVector = .v12)) ∧
    (s.mode = .v86 → e = .gp0 ∨ (∃ code lin, e = .pf code lin) ∨ (e = .ss0 ∧ s.launch.realSsVector = .v12)) ∧
    (s.mode = .prot → e = .gp0 ∨ e = .ss0 ∨ ∃ code lin, e = .pf code lin)

/-- The default `Deliver` ends the run with the exception and the state of R181, in every mode, at fetch as in an instruction; vectors and
error codes as R170 lists them (R170 to R174, R182). -/
def Obligations.ExceptionEndsTheRun : Prop :=
  (∀ (s : State) (e : Exc), s.launch.deliver = .terminal → s.takeException e = .fault (.exception e (s.atException e))) ∧
  (∀ (s : State) (e : Exc), s.launch.deliver = .terminal → s.launchRefusal = none → s.fetch = .raised e →
    step s = .fault (.exception e (s.atException e))) ∧
  (Exc.gp0.vector = 13 ∧ Exc.gp0.errorCode = some 0 ∧ Exc.ss0.vector = 12 ∧ Exc.ss0.errorCode = some 0 ∧
    Exc.interrupt13.vector = 13 ∧ Exc.interrupt13.errorCode = none) ∧
  (∀ (code : Half) (lin : Dword), (Exc.pf code lin).vector = 14 ∧ (Exc.pf code lin).errorCode = some code ∧
    (Exc.pf code lin).cr2 = some lin)

/-- An instruction any of whose bytes lies beyond the limit of CS, or in a page that does not admit the fetch, ends in that exception at
the fetch (R15, R54, R174, R175, R178): the first byte, with no byte fetched before it, or a later one, with the bytes before it fetched
and the decoder asking for more. Interrupt 13 in real-address mode, #GP(0) in the others. The state is that of before the fetch: that the
A bits which the earlier bytes set are dropped is the model's choice (log 12), which R181 permits. -/
def Obligations.FetchBeyondLimitFaults : Prop :=
  ∀ s : State, s.launch.deliver = .terminal → s.launchRefusal = none →
    (s.mode = .real → 0xFFFF < s.eip.toNat → step s = .fault (.exception .interrupt13 s)) ∧
    (s.mode = .v86 → 0xFFFF < s.eip.toNat → step s = .fault (.exception .gp0 s)) ∧
    (s.mode = .prot → s.segs.cs.valid = false ∨ (s.segs.cs.expandDown = false ∧ s.segs.cs.limit.toNat < s.eip.toNat) →
      step s = .fault (.exception .gp0 s)) ∧
    (∀ (bs : List Byte) (s1 : State), s.fetchBytes 0 bs.length = .ok bs s1 → decode s.defaultSize bs = .more →
      (s.mode = .real → 0xFFFF < s.eip.toNat + bs.length → step s = .fault (.exception .interrupt13 s)) ∧
      (s.mode = .v86 → 0xFFFF < s.eip.toNat + bs.length → step s = .fault (.exception .gp0 s)) ∧
      (s.mode = .prot → s.segs.cs.expandDown = false → s.segs.cs.limit.toNat < s.eip.toNat + bs.length →
        s.eip.toNat + bs.length < 2 ^ 32 → step s = .fault (.exception .gp0 s)) ∧
      (∀ e : Exc, s1.fetchByte bs.length = .raised e → step s = .fault (.exception e (s.atException e)))) ∧
    (∀ bs : List Byte, s.mode = .real → s.eip.toNat + bs.length = 0x10000 → decode .s16 bs = .more →
      (∀ k < bs.length, bs[k]? = some (s.readPhys (s.segs.cs.base + (s.eip + BitVec.ofNat 32 k)))) →
      step s = .fault (.exception .interrupt13 s))

/-- Delivery of a real-mode exception under the parameter `Deliver` (R183, general knowledge of the spec; log 8): FLAGS, CS and IP pushed
at SS:SP, IF and TF cleared, IP and CS from 4 x vector, every other field unchanged but the record of it. That SP wraps at 16 bits, that
the new CS keeps limit and rights, and that a push at offset FFFFh ends the run is the model's choice (log 24, R184). -/
def Obligations.RealModeDeliveryEntersHandler : Prop :=
  ∀ (s : State) (e : Exc), s.launch.deliver = .vectorTable → s.mode = .real → (∀ code lin, e ≠ .pf code lin) →
    ((s.getReg .word .esp).toNat ∈ [1, 3, 5] → s.takeException e = .fault (.deliveryFailed e
      (if s.launch.realSsVector = .v12 then .interrupt12 else .interrupt13) s)) ∧
    ((s.getReg .word .esp).toNat ∉ [1, 3, 5] → ∃ t : State, s.takeException e = .next t ∧
      t.regs = (s.setReg .word .esp (s.getReg .word .esp - 6)).regs ∧
      t.eflags = { s.eflags with IF := false, TF := false } ∧
      t.readAt .word (addrRange (s.segs.ss.base + (s.getReg .word .esp - 2).setWidth 32) 2) = s.eflags.flags16 ∧
      t.readAt .word (addrRange (s.segs.ss.base + (s.getReg .word .esp - 4).setWidth 32) 2) = s.segs.cs.selector ∧
      t.readAt .word (addrRange (s.segs.ss.base + (s.getReg .word .esp - 6).setWidth 32) 2) = s.eip.setWidth 16 ∧
      t.eip = (t.readAt .word (addrRange (BitVec.ofNat 32 (4 * e.vector)) 2)).setWidth 32 ∧
      t.segs.cs.selector = t.readAt .word (addrRange (BitVec.ofNat 32 (4 * e.vector + 2)) 2) ∧
      t.segs.cs.base.toNat = 16 * t.segs.cs.selector.toNat ∧
      t.segs.cs = { s.segs.cs with selector := t.segs.cs.selector, base := t.segs.cs.base } ∧
      (∀ g : SegReg, g ≠ .cs → t.segs.get g = s.segs.get g) ∧
      t.cr0 = s.cr0 ∧ t.cr2 = s.cr2 ∧ t.cr3 = s.cr3 ∧ t.cpl = s.cpl ∧ t.csDefaultSize = s.csDefaultSize ∧ t.tr = s.tr ∧
      t.debugRegs = s.debugRegs ∧ t.io = s.io ∧ t.delivered = s.delivered ++ [e] ∧ t.launch = s.launch ∧
      SameMemoryBut (addrRange (s.segs.ss.base + (s.getReg .word .esp - 2).setWidth 32) 2 ++
        addrRange (s.segs.ss.base + (s.getReg .word .esp - 4).setWidth 32) 2 ++
        addrRange (s.segs.ss.base + (s.getReg .word .esp - 6).setWidth 32) 2) s t)

/-- Where an operand or a permission lookup raises an exception, the instruction traps with it (R103 to R105, R154, R162, R163, R178, R181):
the eleven memory forms of OR; every OUT; every OUTS, and REP OUTS with a nonzero count, at the lookup or, permission given, at the item.
With paging on the A and D bits of the part that succeeded are dropped, the model's choice (log 12). -/
def Obligations.OperandExceptionsTrap : Prop :=
  ∀ (p : Prefixes) (s : State) (e : Exc), s.launch.deliver = .terminal →
    (∀ (a : Addr) (r : Reg) (b : Byte) (h : Half) (v : Dword), ∀ f ∈ orMemoryForms p a r b h v,
      s.openOperand (p.segFor a.defaultSeg) (s.offsetOf a) f.1 .write = .raised e → TrapsWith f.2 s e) ∧
    (∀ (a : Addr) (r : Reg), ∀ f ∈ orLoadForms p a r,
      s.openOperand (p.segFor a.defaultSeg) (s.offsetOf a) f.1 .read = .raised e → TrapsWith f.2 s e) ∧
    (∀ n : Byte, ∀ f ∈ outImmForms p n, s.ioCheck (n.setWidth 16) f.1.bytes = .raised e → TrapsWith f.2 s e) ∧
    (∀ f ∈ outDxForms p, s.ioCheck s.portDx f.1.bytes = .raised e → TrapsWith f.2 s e) ∧
    (∀ f ∈ outsForms p ++ repOutsForms p, (f ∈ repOutsForms p → s.repCount p ≠ 0) →
      (s.ioCheck s.portDx f.1.bytes = .raised e → TrapsWith f.2 s e) ∧
      (∀ s1 : State, s.ioCheck s.portDx f.1.bytes = .ok () s1 →
        s1.memRead (p.segFor .ds) (s.sourceIndex p) f.1 = .raised e → TrapsWith f.2 s e))

/-- A run is over, and the state then is its final state, when EIP is at the end of the program after an instruction that began inside it
completes (R203: the last clause). While EIP is not at the end the run goes on from the next state. A run has a final state only so: it
begins inside the program, EIP is at the end after it, no exception was delivered on the way (log 35), and further steps change nothing. A
first step that stops or delivers an exception leaves none, and nor does EIP outside the program. -/
def Obligations.FinalStateOnlyAtProgramEnd : Prop :=
  (∀ (n : Nat) (s t : State), finalState n s = some t →
    s.inProgram = true ∧ s.runOver = false ∧ t.runOver = true ∧ t.delivered = s.delivered ∧ ∀ m : Nat, finalState (n + m) s = some t) ∧
  (∀ (n : Nat) (s : State), s.inProgram = false ∨ s.runOver = true ∨ s.launch.program = none → finalState n s = none) ∧
  (∀ (n : Nat) (s t : State), step s = .next t → t.delivered ≠ s.delivered → finalState n s = none) ∧
  (∀ (n : Nat) (s : State) (f : Fault), step s = .fault f → finalState n s = none) ∧
  (∀ (n : Nat) (s : State) (r : Refusal), step s = .refused r → finalState n s = none) ∧
  (∀ (n : Nat) (s t : State), s.inProgram = true → step s = .next t → t.delivered = s.delivered → t.runOver = false →
    finalState (n + 1) s = finalState n t) ∧
  (∀ (n : Nat) (s t : State), s.inProgram = true → step s = .next t → t.delivered = s.delivered → t.runOver = true →
    finalState (n + 1) s = some t)
end

