-- ==== Sys2Proof/Laws/State.lean ====
section
/-! SUPPORT. What each update of the state leaves in each field it does not write, and in the one it writes. -/

namespace Sys2Proof.Machine

/-! `State.setReg` writes regs. -/

@[simp] theorem State.setReg_eip (s : State) (w : Width) (i : Reg) (v : BitVec w.bits) : (s.setReg w i v).eip = s.eip := by cases w <;> rfl
@[simp] theorem State.setReg_eflags (s : State) (w : Width) (i : Reg) (v : BitVec w.bits) : (s.setReg w i v).eflags = s.eflags := by cases w <;> rfl
@[simp] theorem State.setReg_cr0 (s : State) (w : Width) (i : Reg) (v : BitVec w.bits) : (s.setReg w i v).cr0 = s.cr0 := by cases w <;> rfl
@[simp] theorem State.setReg_cr2 (s : State) (w : Width) (i : Reg) (v : BitVec w.bits) : (s.setReg w i v).cr2 = s.cr2 := by cases w <;> rfl
@[simp] theorem State.setReg_cr3 (s : State) (w : Width) (i : Reg) (v : BitVec w.bits) : (s.setReg w i v).cr3 = s.cr3 := by cases w <;> rfl
@[simp] theorem State.setReg_cpl (s : State) (w : Width) (i : Reg) (v : BitVec w.bits) : (s.setReg w i v).cpl = s.cpl := by cases w <;> rfl
@[simp] theorem State.setReg_segs (s : State) (w : Width) (i : Reg) (v : BitVec w.bits) : (s.setReg w i v).segs = s.segs := by cases w <;> rfl
@[simp] theorem State.setReg_csDefaultSize (s : State) (w : Width) (i : Reg) (v : BitVec w.bits) : (s.setReg w i v).csDefaultSize = s.csDefaultSize := by cases w <;> rfl
@[simp] theorem State.setReg_tr (s : State) (w : Width) (i : Reg) (v : BitVec w.bits) : (s.setReg w i v).tr = s.tr := by cases w <;> rfl
@[simp] theorem State.setReg_debugRegs (s : State) (w : Width) (i : Reg) (v : BitVec w.bits) : (s.setReg w i v).debugRegs = s.debugRegs := by cases w <;> rfl
@[simp] theorem State.setReg_mem (s : State) (w : Width) (i : Reg) (v : BitVec w.bits) : (s.setReg w i v).mem = s.mem := by cases w <;> rfl
@[simp] theorem State.setReg_io (s : State) (w : Width) (i : Reg) (v : BitVec w.bits) : (s.setReg w i v).io = s.io := by cases w <;> rfl
@[simp] theorem State.setReg_delivered (s : State) (w : Width) (i : Reg) (v : BitVec w.bits) : (s.setReg w i v).delivered = s.delivered := by cases w <;> rfl
@[simp] theorem State.setReg_launch (s : State) (w : Width) (i : Reg) (v : BitVec w.bits) : (s.setReg w i v).launch = s.launch := by cases w <;> rfl
@[simp] theorem State.setReg_draws (s : State) (w : Width) (i : Reg) (v : BitVec w.bits) : (s.setReg w i v).draws = s.draws := by cases w <;> rfl

/-! `State.writePhys` writes mem. -/

@[simp] theorem State.writePhys_regs (s : State) (pa : Dword) (b : Byte) : (s.writePhys pa b).regs = s.regs := rfl
@[simp] theorem State.writePhys_eip (s : State) (pa : Dword) (b : Byte) : (s.writePhys pa b).eip = s.eip := rfl
@[simp] theorem State.writePhys_eflags (s : State) (pa : Dword) (b : Byte) : (s.writePhys pa b).eflags = s.eflags := rfl
@[simp] theorem State.writePhys_cr0 (s : State) (pa : Dword) (b : Byte) : (s.writePhys pa b).cr0 = s.cr0 := rfl
@[simp] theorem State.writePhys_cr2 (s : State) (pa : Dword) (b : Byte) : (s.writePhys pa b).cr2 = s.cr2 := rfl
@[simp] theorem State.writePhys_cr3 (s : State) (pa : Dword) (b : Byte) : (s.writePhys pa b).cr3 = s.cr3 := rfl
@[simp] theorem State.writePhys_cpl (s : State) (pa : Dword) (b : Byte) : (s.writePhys pa b).cpl = s.cpl := rfl
@[simp] theorem State.writePhys_segs (s : State) (pa : Dword) (b : Byte) : (s.writePhys pa b).segs = s.segs := rfl
@[simp] theorem State.writePhys_csDefaultSize (s : State) (pa : Dword) (b : Byte) : (s.writePhys pa b).csDefaultSize = s.csDefaultSize := rfl
@[simp] theorem State.writePhys_tr (s : State) (pa : Dword) (b : Byte) : (s.writePhys pa b).tr = s.tr := rfl
@[simp] theorem State.writePhys_debugRegs (s : State) (pa : Dword) (b : Byte) : (s.writePhys pa b).debugRegs = s.debugRegs := rfl
@[simp] theorem State.writePhys_io (s : State) (pa : Dword) (b : Byte) : (s.writePhys pa b).io = s.io := rfl
@[simp] theorem State.writePhys_delivered (s : State) (pa : Dword) (b : Byte) : (s.writePhys pa b).delivered = s.delivered := rfl
@[simp] theorem State.writePhys_launch (s : State) (pa : Dword) (b : Byte) : (s.writePhys pa b).launch = s.launch := rfl
@[simp] theorem State.writePhys_draws (s : State) (pa : Dword) (b : Byte) : (s.writePhys pa b).draws = s.draws := rfl

/-! `State.markPhys` writes mem. -/

@[simp] theorem State.markPhys_regs (s : State) (pa : Dword) (bits : Byte) : (s.markPhys pa bits).regs = s.regs := rfl
@[simp] theorem State.markPhys_eip (s : State) (pa : Dword) (bits : Byte) : (s.markPhys pa bits).eip = s.eip := rfl
@[simp] theorem State.markPhys_eflags (s : State) (pa : Dword) (bits : Byte) : (s.markPhys pa bits).eflags = s.eflags := rfl
@[simp] theorem State.markPhys_cr0 (s : State) (pa : Dword) (bits : Byte) : (s.markPhys pa bits).cr0 = s.cr0 := rfl
@[simp] theorem State.markPhys_cr2 (s : State) (pa : Dword) (bits : Byte) : (s.markPhys pa bits).cr2 = s.cr2 := rfl
@[simp] theorem State.markPhys_cr3 (s : State) (pa : Dword) (bits : Byte) : (s.markPhys pa bits).cr3 = s.cr3 := rfl
@[simp] theorem State.markPhys_cpl (s : State) (pa : Dword) (bits : Byte) : (s.markPhys pa bits).cpl = s.cpl := rfl
@[simp] theorem State.markPhys_segs (s : State) (pa : Dword) (bits : Byte) : (s.markPhys pa bits).segs = s.segs := rfl
@[simp] theorem State.markPhys_csDefaultSize (s : State) (pa : Dword) (bits : Byte) : (s.markPhys pa bits).csDefaultSize = s.csDefaultSize := rfl
@[simp] theorem State.markPhys_tr (s : State) (pa : Dword) (bits : Byte) : (s.markPhys pa bits).tr = s.tr := rfl
@[simp] theorem State.markPhys_debugRegs (s : State) (pa : Dword) (bits : Byte) : (s.markPhys pa bits).debugRegs = s.debugRegs := rfl
@[simp] theorem State.markPhys_io (s : State) (pa : Dword) (bits : Byte) : (s.markPhys pa bits).io = s.io := rfl
@[simp] theorem State.markPhys_delivered (s : State) (pa : Dword) (bits : Byte) : (s.markPhys pa bits).delivered = s.delivered := rfl
@[simp] theorem State.markPhys_launch (s : State) (pa : Dword) (bits : Byte) : (s.markPhys pa bits).launch = s.launch := rfl
@[simp] theorem State.markPhys_draws (s : State) (pa : Dword) (bits : Byte) : (s.markPhys pa bits).draws = s.draws := rfl

/-! `State.writeAt` writes mem. -/

theorem State.writeAt_eq_mem (s : State) (pas : List Dword) (bs : List Byte) :
    s.writeAt pas bs = { s with mem := (s.writeAt pas bs).mem } := by
  induction pas generalizing s bs with
  | nil => rfl
  | cons pa pas ih => cases bs with
    | nil => rfl
    | cons b bs => exact (ih (s.writePhys pa b) bs).trans rfl

@[simp] theorem State.writeAt_regs (s : State) (pas : List Dword) (bs : List Byte) : (s.writeAt pas bs).regs = s.regs := by rw [State.writeAt_eq_mem]
@[simp] theorem State.writeAt_eip (s : State) (pas : List Dword) (bs : List Byte) : (s.writeAt pas bs).eip = s.eip := by rw [State.writeAt_eq_mem]
@[simp] theorem State.writeAt_eflags (s : State) (pas : List Dword) (bs : List Byte) : (s.writeAt pas bs).eflags = s.eflags := by rw [State.writeAt_eq_mem]
@[simp] theorem State.writeAt_cr0 (s : State) (pas : List Dword) (bs : List Byte) : (s.writeAt pas bs).cr0 = s.cr0 := by rw [State.writeAt_eq_mem]
@[simp] theorem State.writeAt_cr2 (s : State) (pas : List Dword) (bs : List Byte) : (s.writeAt pas bs).cr2 = s.cr2 := by rw [State.writeAt_eq_mem]
@[simp] theorem State.writeAt_cr3 (s : State) (pas : List Dword) (bs : List Byte) : (s.writeAt pas bs).cr3 = s.cr3 := by rw [State.writeAt_eq_mem]
@[simp] theorem State.writeAt_cpl (s : State) (pas : List Dword) (bs : List Byte) : (s.writeAt pas bs).cpl = s.cpl := by rw [State.writeAt_eq_mem]
@[simp] theorem State.writeAt_segs (s : State) (pas : List Dword) (bs : List Byte) : (s.writeAt pas bs).segs = s.segs := by rw [State.writeAt_eq_mem]
@[simp] theorem State.writeAt_csDefaultSize (s : State) (pas : List Dword) (bs : List Byte) : (s.writeAt pas bs).csDefaultSize = s.csDefaultSize := by rw [State.writeAt_eq_mem]
@[simp] theorem State.writeAt_tr (s : State) (pas : List Dword) (bs : List Byte) : (s.writeAt pas bs).tr = s.tr := by rw [State.writeAt_eq_mem]
@[simp] theorem State.writeAt_debugRegs (s : State) (pas : List Dword) (bs : List Byte) : (s.writeAt pas bs).debugRegs = s.debugRegs := by rw [State.writeAt_eq_mem]
@[simp] theorem State.writeAt_io (s : State) (pas : List Dword) (bs : List Byte) : (s.writeAt pas bs).io = s.io := by rw [State.writeAt_eq_mem]
@[simp] theorem State.writeAt_delivered (s : State) (pas : List Dword) (bs : List Byte) : (s.writeAt pas bs).delivered = s.delivered := by rw [State.writeAt_eq_mem]
@[simp] theorem State.writeAt_launch (s : State) (pas : List Dword) (bs : List Byte) : (s.writeAt pas bs).launch = s.launch := by rw [State.writeAt_eq_mem]
@[simp] theorem State.writeAt_draws (s : State) (pas : List Dword) (bs : List Byte) : (s.writeAt pas bs).draws = s.draws := by rw [State.writeAt_eq_mem]

/-! `State.setLogicFlags` writes eflags and draws. -/

@[simp] theorem State.setLogicFlags_regs (s : State) {k : Nat} (r : BitVec k) : (s.setLogicFlags r).regs = s.regs := rfl
@[simp] theorem State.setLogicFlags_eip (s : State) {k : Nat} (r : BitVec k) : (s.setLogicFlags r).eip = s.eip := rfl
@[simp] theorem State.setLogicFlags_cr0 (s : State) {k : Nat} (r : BitVec k) : (s.setLogicFlags r).cr0 = s.cr0 := rfl
@[simp] theorem State.setLogicFlags_cr2 (s : State) {k : Nat} (r : BitVec k) : (s.setLogicFlags r).cr2 = s.cr2 := rfl
@[simp] theorem State.setLogicFlags_cr3 (s : State) {k : Nat} (r : BitVec k) : (s.setLogicFlags r).cr3 = s.cr3 := rfl
@[simp] theorem State.setLogicFlags_cpl (s : State) {k : Nat} (r : BitVec k) : (s.setLogicFlags r).cpl = s.cpl := rfl
@[simp] theorem State.setLogicFlags_segs (s : State) {k : Nat} (r : BitVec k) : (s.setLogicFlags r).segs = s.segs := rfl
@[simp] theorem State.setLogicFlags_csDefaultSize (s : State) {k : Nat} (r : BitVec k) : (s.setLogicFlags r).csDefaultSize = s.csDefaultSize := rfl
@[simp] theorem State.setLogicFlags_tr (s : State) {k : Nat} (r : BitVec k) : (s.setLogicFlags r).tr = s.tr := rfl
@[simp] theorem State.setLogicFlags_debugRegs (s : State) {k : Nat} (r : BitVec k) : (s.setLogicFlags r).debugRegs = s.debugRegs := rfl
@[simp] theorem State.setLogicFlags_mem (s : State) {k : Nat} (r : BitVec k) : (s.setLogicFlags r).mem = s.mem := rfl
@[simp] theorem State.setLogicFlags_io (s : State) {k : Nat} (r : BitVec k) : (s.setLogicFlags r).io = s.io := rfl
@[simp] theorem State.setLogicFlags_delivered (s : State) {k : Nat} (r : BitVec k) : (s.setLogicFlags r).delivered = s.delivered := rfl
@[simp] theorem State.setLogicFlags_launch (s : State) {k : Nat} (r : BitVec k) : (s.setLogicFlags r).launch = s.launch := rfl

/-! `State.addSized` writes regs. -/

@[simp] theorem State.addSized_eip (s : State) (z : Size) (i : Reg) (k : Dword) : (s.addSized z i k).eip = s.eip := by cases z <;> rfl
@[simp] theorem State.addSized_eflags (s : State) (z : Size) (i : Reg) (k : Dword) : (s.addSized z i k).eflags = s.eflags := by cases z <;> rfl
@[simp] theorem State.addSized_cr0 (s : State) (z : Size) (i : Reg) (k : Dword) : (s.addSized z i k).cr0 = s.cr0 := by cases z <;> rfl
@[simp] theorem State.addSized_cr2 (s : State) (z : Size) (i : Reg) (k : Dword) : (s.addSized z i k).cr2 = s.cr2 := by cases z <;> rfl
@[simp] theorem State.addSized_cr3 (s : State) (z : Size) (i : Reg) (k : Dword) : (s.addSized z i k).cr3 = s.cr3 := by cases z <;> rfl
@[simp] theorem State.addSized_cpl (s : State) (z : Size) (i : Reg) (k : Dword) : (s.addSized z i k).cpl = s.cpl := by cases z <;> rfl
@[simp] theorem State.addSized_segs (s : State) (z : Size) (i : Reg) (k : Dword) : (s.addSized z i k).segs = s.segs := by cases z <;> rfl
@[simp] theorem State.addSized_csDefaultSize (s : State) (z : Size) (i : Reg) (k : Dword) : (s.addSized z i k).csDefaultSize = s.csDefaultSize := by cases z <;> rfl
@[simp] theorem State.addSized_tr (s : State) (z : Size) (i : Reg) (k : Dword) : (s.addSized z i k).tr = s.tr := by cases z <;> rfl
@[simp] theorem State.addSized_debugRegs (s : State) (z : Size) (i : Reg) (k : Dword) : (s.addSized z i k).debugRegs = s.debugRegs := by cases z <;> rfl
@[simp] theorem State.addSized_mem (s : State) (z : Size) (i : Reg) (k : Dword) : (s.addSized z i k).mem = s.mem := by cases z <;> rfl
@[simp] theorem State.addSized_io (s : State) (z : Size) (i : Reg) (k : Dword) : (s.addSized z i k).io = s.io := by cases z <;> rfl
@[simp] theorem State.addSized_delivered (s : State) (z : Size) (i : Reg) (k : Dword) : (s.addSized z i k).delivered = s.delivered := by cases z <;> rfl
@[simp] theorem State.addSized_launch (s : State) (z : Size) (i : Reg) (k : Dword) : (s.addSized z i k).launch = s.launch := by cases z <;> rfl
@[simp] theorem State.addSized_draws (s : State) (z : Size) (i : Reg) (k : Dword) : (s.addSized z i k).draws = s.draws := by cases z <;> rfl

/-! `State.recordDelivery` writes delivered. -/

@[simp] theorem State.recordDelivery_regs (s : State) (e : Exc) : (s.recordDelivery e).regs = s.regs := rfl
@[simp] theorem State.recordDelivery_eip (s : State) (e : Exc) : (s.recordDelivery e).eip = s.eip := rfl
@[simp] theorem State.recordDelivery_eflags (s : State) (e : Exc) : (s.recordDelivery e).eflags = s.eflags := rfl
@[simp] theorem State.recordDelivery_cr0 (s : State) (e : Exc) : (s.recordDelivery e).cr0 = s.cr0 := rfl
@[simp] theorem State.recordDelivery_cr2 (s : State) (e : Exc) : (s.recordDelivery e).cr2 = s.cr2 := rfl
@[simp] theorem State.recordDelivery_cr3 (s : State) (e : Exc) : (s.recordDelivery e).cr3 = s.cr3 := rfl
@[simp] theorem State.recordDelivery_cpl (s : State) (e : Exc) : (s.recordDelivery e).cpl = s.cpl := rfl
@[simp] theorem State.recordDelivery_segs (s : State) (e : Exc) : (s.recordDelivery e).segs = s.segs := rfl
@[simp] theorem State.recordDelivery_csDefaultSize (s : State) (e : Exc) : (s.recordDelivery e).csDefaultSize = s.csDefaultSize := rfl
@[simp] theorem State.recordDelivery_tr (s : State) (e : Exc) : (s.recordDelivery e).tr = s.tr := rfl
@[simp] theorem State.recordDelivery_debugRegs (s : State) (e : Exc) : (s.recordDelivery e).debugRegs = s.debugRegs := rfl
@[simp] theorem State.recordDelivery_mem (s : State) (e : Exc) : (s.recordDelivery e).mem = s.mem := rfl
@[simp] theorem State.recordDelivery_io (s : State) (e : Exc) : (s.recordDelivery e).io = s.io := rfl
@[simp] theorem State.recordDelivery_launch (s : State) (e : Exc) : (s.recordDelivery e).launch = s.launch := rfl
@[simp] theorem State.recordDelivery_draws (s : State) (e : Exc) : (s.recordDelivery e).draws = s.draws := rfl

/-! `State.atException` writes cr2 and draws. -/

@[simp] theorem State.atException_regs (s : State) (e : Exc) : (s.atException e).regs = s.regs := by cases e <;> rfl
@[simp] theorem State.atException_eip (s : State) (e : Exc) : (s.atException e).eip = s.eip := by cases e <;> rfl
@[simp] theorem State.atException_eflags (s : State) (e : Exc) : (s.atException e).eflags = s.eflags := by cases e <;> rfl
@[simp] theorem State.atException_cr0 (s : State) (e : Exc) : (s.atException e).cr0 = s.cr0 := by cases e <;> rfl
@[simp] theorem State.atException_cr3 (s : State) (e : Exc) : (s.atException e).cr3 = s.cr3 := by cases e <;> rfl
@[simp] theorem State.atException_cpl (s : State) (e : Exc) : (s.atException e).cpl = s.cpl := by cases e <;> rfl
@[simp] theorem State.atException_segs (s : State) (e : Exc) : (s.atException e).segs = s.segs := by cases e <;> rfl
@[simp] theorem State.atException_csDefaultSize (s : State) (e : Exc) : (s.atException e).csDefaultSize = s.csDefaultSize := by cases e <;> rfl
@[simp] theorem State.atException_tr (s : State) (e : Exc) : (s.atException e).tr = s.tr := by cases e <;> rfl
@[simp] theorem State.atException_debugRegs (s : State) (e : Exc) : (s.atException e).debugRegs = s.debugRegs := by cases e <;> rfl
@[simp] theorem State.atException_mem (s : State) (e : Exc) : (s.atException e).mem = s.mem := by cases e <;> rfl
@[simp] theorem State.atException_io (s : State) (e : Exc) : (s.atException e).io = s.io := by cases e <;> rfl
@[simp] theorem State.atException_delivered (s : State) (e : Exc) : (s.atException e).delivered = s.delivered := by cases e <;> rfl
@[simp] theorem State.atException_launch (s : State) (e : Exc) : (s.atException e).launch = s.launch := by cases e <;> rfl

@[simp] theorem State.writePhys_mem (s : State) (pa : Dword) (b : Byte) :
    (s.writePhys pa b).mem = Memory.write s.mem pa.toNat b := rfl

@[simp] theorem State.setLogicFlags_eflags (s : State) {k : Nat} (r : BitVec k) :
    (s.setLogicFlags r).eflags = s.eflags.ofLogic r (Config.freeAF s.draws) := rfl

@[simp] theorem State.atException_pf_cr2 (s : State) (code : Half) (lin : Dword) :
    (s.atException (.pf code lin)).cr2 = lin := rfl

@[simp] theorem State.recordDelivery_delivered (s : State) (e : Exc) : (s.recordDelivery e).delivered = s.delivered ++ [e] := rfl

/-! Derived views do not change when the fields they read do not. -/

theorem State.mode_congr {s t : State} (h0 : t.cr0 = s.cr0) (hf : t.eflags.VM = s.eflags.VM) : t.mode = s.mode := by
  unfold State.mode State.pe; rw [h0, hf]

theorem State.paging_congr {s t : State} (h0 : t.cr0 = s.cr0) : t.paging = s.paging := by
  unfold State.paging State.pe State.pg; rw [h0]

theorem State.defaultSize_congr {s t : State} (h0 : t.cr0 = s.cr0) (hf : t.eflags.VM = s.eflags.VM)
    (hc : t.csDefaultSize = s.csDefaultSize) : t.defaultSize = s.defaultSize := by
  unfold State.defaultSize; rw [State.mode_congr h0 hf, hc]

/-! General registers. -/

@[simp] theorem Regs.get32_set32_same (x : Regs) (i : Reg) (v : Dword) : (x.set32 i v).get32 i = v := by cases i <;> rfl

theorem Regs.get32_set32_other (x : Regs) {i j : Reg} (v : Dword) (h : j ≠ i) : (x.set32 i v).get32 j = x.get32 j := by
  cases i <;> cases j <;> first | rfl | exact absurd rfl h

@[simp] theorem Regs.set32_get32 (x : Regs) (i : Reg) : x.set32 i (x.get32 i) = x := by cases i <;> rfl

@[simp] theorem Regs.get16_set16_same (x : Regs) (i : Reg) (v : Half) : (x.set16 i v).get16 i = v := by
  simp only [Regs.get16, Regs.set16, Regs.get32_set32_same]
  apply BitVec.eq_of_getLsbD_eq
  intro k hk
  simp only [BitVec.getLsbD_extractLsb', BitVec.getLsbD_append, Nat.zero_add, hk, decide_true, Bool.true_and, if_true]

@[simp] theorem State.getReg_setReg_dword (s : State) (i : Reg) (v : Dword) : (s.setReg .dword i v).getReg .dword i = v :=
  Regs.get32_set32_same s.regs i v

@[simp] theorem State.getReg_setReg_word (s : State) (i : Reg) (v : Half) : (s.setReg .word i v).getReg .word i = v :=
  Regs.get16_set16_same s.regs i v

end Sys2Proof.Machine
end

