-- ==== Sys2Proof/Laws/Access.lean ====
section
/-! SUPPORT. Sequencing of operations that can stop, and how an instruction's outcome is concluded from it. -/

namespace Sys2Proof.Machine

variable {α β : Type}

@[simp] theorem Access.andThen_ok (a : α) (s : State) (f : α → State → Access β) : (Access.ok a s).andThen f = f a s := rfl

@[simp] theorem Access.andThen_raised (e : Exc) (f : α → State → Access β) :
    (Access.raised e : Access α).andThen f = .raised e := rfl

@[simp] theorem Access.andThen_refused (r : Refusal) (f : α → State → Access β) :
    (Access.refused r : Access α).andThen f = .refused r := rfl

/-- What is known when a sequence answers. -/
theorem Access.andThen_eq_ok {m : Access α} {f : α → State → Access β} {b : β} {t : State} :
    m.andThen f = .ok b t ↔ ∃ a s, m = .ok a s ∧ f a s = .ok b t := by
  cases m <;> simp

/-- What is known when a sequence raises. -/
theorem Access.andThen_eq_raised {m : Access α} {f : α → State → Access β} {e : Exc} :
    m.andThen f = .raised e ↔ m = .raised e ∨ ∃ a s, m = .ok a s ∧ f a s = .raised e := by
  cases m <;> simp

/-- What is known when a sequence is refused. -/
theorem Access.andThen_eq_refused {m : Access α} {f : α → State → Access β} {r : Refusal} :
    m.andThen f = .refused r ↔ m = .refused r ∨ ∃ a s, m = .ok a s ∧ f a s = .refused r := by
  cases m <;> simp

@[simp] theorem Access.check_ok (a : α) (s : State) : Access.check (.ok a) s = .ok a s := rfl

@[simp] theorem Access.check_error (e : Exc) (s : State) : Access.check (.error e : Except Exc α) s = .raised e := rfl

theorem Access.check_eq_ok {c : Except Exc α} {s t : State} {a : α} :
    Access.check c s = .ok a t ↔ c = .ok a ∧ t = s := by
  cases c <;> simp [Access.check, eq_comm]

theorem Access.check_eq_raised {c : Except Exc α} {s : State} {e : Exc} :
    Access.check c s = .raised e ↔ c = .error e := by
  cases c <;> simp [Access.check]

theorem Access.check_ne_refused {c : Except Exc α} {s : State} {r : Refusal} : Access.check c s ≠ .refused r := by
  cases c <;> simp [Access.check]

@[simp] theorem State.conclude_ok (s t : State) : s.conclude (.ok () t) = .next t := rfl

@[simp] theorem State.conclude_raised (s : State) (e : Exc) : s.conclude (.raised e) = s.takeException e := rfl

@[simp] theorem State.conclude_refused (s : State) (r : Refusal) : s.conclude (.refused r) = .refused r := rfl

/-- An instruction answers a next state by completing, or by an exception that is delivered. -/
theorem State.conclude_eq_next {s t : State} {m : Access Unit} :
    s.conclude m = .next t ↔ m = .ok () t ∨ ∃ e, m = .raised e ∧ s.takeException e = .next t := by
  cases m <;> simp [State.conclude]

end Sys2Proof.Machine
end

