-- ==== Sys2Proof/Laws/Decode.lean ====
section
/-! SUPPORT. The decoder reads no further than the instruction: what it answers depends on the bytes it consumed alone, and on
fewer of them it asks for more, which it never does on 15 bytes (R54, R72, R91). -/

namespace Sys2Proof

variable {α β : Type} {n k : Nat}

@[simp] theorem Parsed.andThen_done (a : α) (rest : List Byte) (f : α → List Byte → Parsed β) :
    (Parsed.done a rest).andThen f = f a rest := rfl

@[simp] theorem Parsed.andThen_more (f : α → List Byte → Parsed β) : (Parsed.more : Parsed α).andThen f = .more := rfl

@[simp] theorem Parsed.andThen_bad (e : DecodeError) (f : α → List Byte → Parsed β) :
    (Parsed.bad e : Parsed α).andThen f = .bad e := rfl

/-- What is known when a sequence of parsers is done. -/
theorem Parsed.andThen_eq_done {m : Parsed α} {f : α → List Byte → Parsed β} {b : β} {rest : List Byte} :
    m.andThen f = .done b rest ↔ ∃ a mid, m = .done a mid ∧ f a mid = .done b rest := by
  cases m <;> simp

/-- The parser, when done, has consumed a first part of its bytes; on that part before any further bytes it is done with the same
value, and on a proper beginning of that part it asks for more. -/
def IsLocal (p : List Byte → Parsed α) : Prop :=
  ∀ bs a rest, p bs = .done a rest → ∃ used, bs = used ++ rest ∧
    (∀ more, p (used ++ more) = .done a more) ∧ (∀ k, k < used.length → p (used.take k) = .more)

/-- How a parser reads: it is local, further bytes change no refusal, and it consumes at most `n` bytes, so that it asks for more only
on fewer. -/
structure Reads (n : Nat) (p : List Byte → Parsed α) : Prop where
  done : IsLocal p
  bad : ∀ bs e more, p bs = .bad e → p (bs ++ more) = .bad e
  doneLength : ∀ bs a rest, p bs = .done a rest → bs.length ≤ rest.length + n
  moreLength : ∀ bs, p bs = .more → bs.length < n

/-- A parser that asks for more on some bytes asks for more on every beginning of them. -/
theorem Reads.more_take {p : List Byte → Parsed α} (hp : Reads n p) {bs : List Byte} (h : p bs = .more) (j : Nat) :
    p (bs.take j) = .more := by
  cases ht : p (bs.take j) with
  | done a rest =>
    obtain ⟨used, e, hu, -⟩ := hp.done _ a rest ht
    rw [← List.take_append_drop j bs, e, List.append_assoc, hu] at h
    exact absurd h (by simp)
  | more => rfl
  | bad e =>
    rw [← List.take_append_drop j bs, hp.bad _ e _ ht] at h
    exact absurd h (by simp)

theorem Reads.pure (a : α) : Reads n fun bs => Parsed.done a bs where
  done := by
    intro bs b rest h
    injection h with h1 h2
    subst h1 h2
    exact ⟨[], rfl, fun _ => rfl, fun k hk => absurd hk (by simp)⟩
  bad := fun _ _ _ h => absurd h (by simp)
  doneLength := by
    intro bs b rest h
    injection h with h1 h2
    subst h2
    exact Nat.le_add_right _ _
  moreLength := fun _ h => absurd h (by simp)

theorem Reads.refuse (e : DecodeError) : Reads n fun _ => (Parsed.bad e : Parsed α) where
  done := fun _ _ _ h => absurd h (by simp)
  bad := fun _ _ _ h => h
  doneLength := fun _ _ _ h => absurd h (by simp)
  moreLength := fun _ h => absurd h (by simp)

theorem IsLocal.andThen {p : List Byte → Parsed α} {f : α → List Byte → Parsed β} (hp : IsLocal p)
    (hf : ∀ a, IsLocal (f a)) : IsLocal fun bs => (p bs).andThen f := by
  intro bs b rest h
  obtain ⟨a, mid, h1, h2⟩ := Parsed.andThen_eq_done.mp h
  obtain ⟨u, rfl, hu, hu'⟩ := hp bs a mid h1
  obtain ⟨v, rfl, hv, hv'⟩ := hf a mid b rest h2
  refine ⟨u ++ v, by simp, fun more => ?_, fun k hk => ?_⟩
  · simp only [List.append_assoc, hu, Parsed.andThen_done, hv]
  · by_cases hk' : k < u.length
    · have e : (u ++ v).take k = u.take k := by
        rw [List.take_append_of_le_length (Nat.le_of_lt hk')]
      simp only [e, hu' k hk', Parsed.andThen_more]
    · have e : (u ++ v).take k = u ++ v.take (k - u.length) := by
        rw [List.take_append, List.take_of_length_le (by omega)]
      have hl : k - u.length < v.length := by
        rw [List.length_append] at hk
        omega
      simp only [e, hu, Parsed.andThen_done, hv' _ hl]

theorem Reads.andThen {p : List Byte → Parsed α} {f : α → List Byte → Parsed β} (hp : Reads n p)
    (hf : ∀ a, Reads (k - n) (f a)) (hk : n ≤ k := by decide) : Reads k fun bs => (p bs).andThen f where
  done := hp.done.andThen fun a => (hf a).done
  bad := by
    intro bs e more h
    cases hb : p bs with
    | done a mid =>
      obtain ⟨u, rfl, hu, -⟩ := hp.done bs a mid hb
      simp only [hb, Parsed.andThen_done] at h
      simp only [List.append_assoc, hu, Parsed.andThen_done, (hf a).bad mid e more h]
    | more => simp [hb] at h
    | bad e' =>
      simp only [hb, Parsed.andThen_bad] at h
      simp only [hp.bad bs e' more hb, Parsed.andThen_bad, h]
  doneLength := by
    intro bs b rest h
    obtain ⟨a, mid, h1, h2⟩ := Parsed.andThen_eq_done.mp h
    have l1 := hp.doneLength bs a mid h1
    have l2 := (hf a).doneLength mid b rest h2
    omega
  moreLength := by
    intro bs h
    cases hb : p bs with
    | done a mid =>
      have l1 := hp.doneLength bs a mid hb
      have l2 := (hf a).moreLength mid (by simpa [hb] using h)
      omega
    | more => exact Nat.lt_of_lt_of_le (hp.moreLength bs hb) hk
    | bad e => simp [hb] at h

theorem takeByte_reads : Reads 1 takeByte where
  done := by
    intro bs a rest h
    cases bs with
    | nil => exact absurd h (by simp [takeByte])
    | cons b t =>
      injection h with h1 h2
      subst h1 h2
      refine ⟨[b], rfl, fun _ => rfl, fun k hk => ?_⟩
      obtain rfl : k = 0 := by simpa using hk
      rfl
  bad := by
    intro bs e more h
    cases bs <;> exact absurd h (by simp [takeByte])
  doneLength := by
    intro bs a rest h
    unfold takeByte at h
    split at h
    · injection h with _ h2
      subst h2
      simp
    · exact absurd h (by simp)
  moreLength := by
    intro bs h
    unfold takeByte at h
    split at h
    · exact absurd h (by simp)
    · simp

theorem takeHalf_reads : Reads 2 takeHalf where
  done := by
    intro bs a rest h
    match bs, h with
    | b0 :: b1 :: t, h =>
      injection h with h1 h2
      subst h1 h2
      refine ⟨[b0, b1], rfl, fun _ => rfl, fun k hk => ?_⟩
      match k, hk with
      | 0, _ => rfl
      | 1, _ => rfl
    | [_], h => exact absurd h (by simp [takeHalf])
    | [], h => exact absurd h (by simp [takeHalf])
  bad := by
    intro bs e more h
    unfold takeHalf at h
    split at h <;> exact absurd h (by simp)
  doneLength := by
    intro bs a rest h
    unfold takeHalf at h
    split at h
    · injection h with _ h2
      subst h2
      simp
    · exact absurd h (by simp)
  moreLength := by
    intro bs h
    match bs, h with
    | _ :: _ :: _, h => exact absurd h (by simp [takeHalf])
    | [_], _ => simp
    | [], _ => simp

theorem takeDword_reads : Reads 4 takeDword where
  done := by
    intro bs a rest h
    match bs, h with
    | b0 :: b1 :: b2 :: b3 :: t, h =>
      injection h with h1 h2
      subst h1 h2
      refine ⟨[b0, b1, b2, b3], rfl, fun _ => rfl, fun k hk => ?_⟩
      match k, hk with
      | 0, _ => rfl
      | 1, _ => rfl
      | 2, _ => rfl
      | 3, _ => rfl
    | [_, _, _], h => exact absurd h (by simp [takeDword])
    | [_, _], h => exact absurd h (by simp [takeDword])
    | [_], h => exact absurd h (by simp [takeDword])
    | [], h => exact absurd h (by simp [takeDword])
  bad := by
    intro bs e more h
    unfold takeDword at h
    split at h <;> exact absurd h (by simp)
  doneLength := by
    intro bs a rest h
    unfold takeDword at h
    split at h
    · injection h with _ h2
      subst h2
      simp
    · exact absurd h (by simp)
  moreLength := by
    intro bs h
    match bs, h with
    | _ :: _ :: _ :: _ :: _, h => exact absurd h (by simp [takeDword])
    | [_, _, _], _ => simp
    | [_, _], _ => simp
    | [_], _ => simp
    | [], _ => simp

/-- How many further prefix bytes may still be read: one of each class not read yet (R73). -/
def Scan.room (sc : Scan) : Nat := (!sc.p.opsize).toNat + (!sc.p.adsize).toNat + sc.p.seg.isNone.toNat + (!sc.rep).toNat

/-- Each prefix byte taken uses up one. -/
theorem Scan.room_add {sc sc' : Scan} {c : PrefixByte} (h : sc.add c = .ok sc') : sc'.room + 1 = sc.room := by
  obtain ⟨⟨o, a, g⟩, r⟩ := sc
  cases c <;> unfold Scan.add at h <;> dsimp only at h
  case refused => exact absurd h (by simp)
  all_goals
    split at h
    · exact absurd h (by simp)
    · injection h with h
      subst h
      simp_all [Scan.room] <;> omega

theorem scanPrefixes_reads (sc : Scan) : Reads (sc.room + 1) (scanPrefixes sc) where
  done := by
    intro bs a rest h
    induction bs generalizing sc with
    | nil => exact absurd h (by simp [scanPrefixes])
    | cons b t ih =>
      unfold scanPrefixes at h
      split at h
      · rename_i hb
        injection h with h1 h2
        subst h1 h2
        refine ⟨[b], rfl, fun more => by simp [scanPrefixes, hb], fun k hk => ?_⟩
        obtain rfl : k = 0 := by simpa using hk
        rfl
      · rename_i k hb
        split at h
        · exact absurd h (by simp)
        · rename_i sc' hsc
          obtain ⟨u, rfl, hu, hu'⟩ := ih sc' h
          refine ⟨b :: u, rfl, fun more => by simp [scanPrefixes, hb, hsc, hu], fun j hj => ?_⟩
          cases j with
          | zero => rfl
          | succ j => simp [scanPrefixes, hb, hsc, hu' j (by simpa using hj)]
  bad := by
    intro bs e more h
    induction bs generalizing sc with
    | nil => exact absurd h (by simp [scanPrefixes])
    | cons b t ih =>
      simp only [List.cons_append]
      unfold scanPrefixes at h ⊢
      split at h
      · exact absurd h (by simp)
      · split at h
        · exact h
        · exact ih _ h
  doneLength := by
    intro bs a rest h
    induction bs generalizing sc with
    | nil => exact absurd h (by simp [scanPrefixes])
    | cons b t ih =>
      unfold scanPrefixes at h
      split at h
      · injection h with _ h2
        subst h2
        simp
      · split at h
        · exact absurd h (by simp)
        · rename_i sc' hsc
          have := ih sc' h
          have := Scan.room_add hsc
          simp only [List.length_cons]
          omega
  moreLength := by
    intro bs h
    induction bs generalizing sc with
    | nil => simp
    | cons b t ih =>
      unfold scanPrefixes at h
      split at h
      · exact absurd h (by simp)
      · split at h
        · exact absurd h (by simp)
        · rename_i sc' hsc
          have := ih sc' h
          have := Scan.room_add hsc
          simp only [List.length_cons]
          omega

theorem decodeRm16_reads (mod : BitVec 2) (rm : BitVec 3) : Reads 2 (decodeRm16 mod rm) := by
  unfold decodeRm16
  split
  · split
    · exact takeHalf_reads.andThen fun d => Reads.pure _
    · exact Reads.pure _
  · exact takeByte_reads.andThen fun d => Reads.pure _
  · exact takeHalf_reads.andThen fun d => Reads.pure _
  · exact Reads.pure _

theorem decodeSib_reads (mod : BitVec 2) (sibByte : Byte) : Reads 4 (decodeSib mod sibByte) := by
  unfold decodeSib
  split
  · exact Reads.refuse _
  · split
    · split
      · exact takeDword_reads.andThen fun d => Reads.pure _
      · exact Reads.pure _
    · exact takeByte_reads.andThen fun d => Reads.pure _
    · exact takeDword_reads.andThen fun d => Reads.pure _

theorem decodeRm32_reads (mod : BitVec 2) (rm : BitVec 3) : Reads 5 (decodeRm32 mod rm) := by
  unfold decodeRm32
  split
  · exact Reads.pure _
  · split
    · exact takeByte_reads.andThen fun b => decodeSib_reads mod b
    · split
      · split
        · exact takeDword_reads.andThen fun d => Reads.pure _
        · exact Reads.pure _
      · exact takeByte_reads.andThen fun d => Reads.pure _
      · exact takeDword_reads.andThen fun d => Reads.pure _

theorem decodeModRm_reads (asz : Size) : Reads 6 (decodeModRm asz) := by
  unfold decodeModRm
  refine takeByte_reads.andThen fun m => ?_
  cases asz with
  | s16 => exact (decodeRm16_reads _ _).andThen fun rm => Reads.pure _
  | s32 => exact (decodeRm32_reads _ _).andThen fun rm => Reads.pure _

theorem decodeSlash1_reads (asz : Size) : Reads 6 (decodeSlash1 asz) := by
  unfold decodeSlash1
  refine (decodeModRm_reads asz).andThen fun x => ?_
  split
  · exact Reads.pure _
  · exact Reads.refuse _

theorem decodeBody_reads (d : Size) (p : Prefixes) (op : Opcode) : Reads 10 (decodeBody d p op) := by
  cases op <;> unfold decodeBody <;> dsimp only
  case op08 => exact (decodeModRm_reads _).andThen fun x => Reads.pure _
  case op09 =>
    refine (decodeModRm_reads _).andThen fun x => ?_
    split <;> exact Reads.pure _
  case op0A => exact (decodeModRm_reads _).andThen fun x => Reads.pure _
  case op0B =>
    refine (decodeModRm_reads _).andThen fun x => ?_
    split <;> exact Reads.pure _
  case op0C => exact takeByte_reads.andThen fun x => Reads.pure _
  case op0D =>
    split
    · exact takeHalf_reads.andThen fun x => Reads.pure _
    · exact takeDword_reads.andThen fun x => Reads.pure _
  case op80 => exact (decodeSlash1_reads _).andThen fun rm => takeByte_reads.andThen fun x => Reads.pure _
  case op81 =>
    refine (decodeSlash1_reads _).andThen fun rm => ?_
    split
    · exact takeHalf_reads.andThen fun x => Reads.pure _
    · exact takeDword_reads.andThen fun x => Reads.pure _
  case op83 =>
    refine (decodeSlash1_reads _).andThen fun rm => takeByte_reads.andThen fun x => ?_
    split <;> exact Reads.pure _
  case opE6 => exact takeByte_reads.andThen fun x => Reads.pure _
  case opE7 =>
    refine takeByte_reads.andThen fun x => ?_
    split <;> exact Reads.pure _
  case opEE => exact Reads.pure _
  case opEF => split <;> exact Reads.pure _
  case op6E => exact Reads.pure _
  case op6F => split <;> exact Reads.pure _

theorem decodeRepBody_reads (d : Size) (p : Prefixes) (op : Opcode) : Reads 10 (decodeRepBody d p op) := by
  unfold decodeRepBody
  split
  · exact Reads.pure _
  · split <;> exact Reads.pure _
  · exact Reads.refuse _

/-- The decoder consumes at most four prefix bytes, an opcode byte and ten bytes more. -/
theorem decode_reads (d : Size) : Reads 15 (decode d) := by
  unfold decode
  refine (scanPrefixes_reads .start).andThen fun x => ?_
  split
  · exact Reads.refuse _
  · split
    · exact decodeRepBody_reads _ _ _
    · exact decodeBody_reads _ _ _

/-- The decoder is local. -/
theorem decode_local (d : Size) : IsLocal (decode d) := (decode_reads d).done

/-- A decoder that asks for more asks for more on every beginning of the bytes. -/
theorem decode_more_take {d : Size} {bs : List Byte} (h : decode d bs = .more) (j : Nat) : decode d (bs.take j) = .more :=
  (decode_reads d).more_take h j

/-- The decoder asks for more on fewer than 15 bytes alone. -/
theorem decode_more_length {d : Size} {bs : List Byte} (h : decode d bs = .more) : bs.length < 15 :=
  (decode_reads d).moreLength bs h

end Sys2Proof
end

