-- ==== Sys2Proof/Laws/Memory.lean ====
section
/-! SUPPORT. Physical memory: a read after a write, and every memory operation keeps the canonical form. -/

namespace Sys2Proof.Machine

theorem Memory.erase_cons_same (a : Nat) (b : Byte) (rest : Memory) :
    Memory.erase ((a, b) :: rest) a = Memory.erase rest a := by simp [Memory.erase]

theorem Memory.erase_cons_other {k a : Nat} (b : Byte) (rest : Memory) (h : k ≠ a) :
    Memory.erase ((k, b) :: rest) a = (k, b) :: Memory.erase rest a := by simp [Memory.erase, h]

theorem Memory.read_erase_same (m : Memory) (a : Nat) : Memory.read (Memory.erase m a) a = Config.unlistedByte := by
  induction m with
  | nil => rfl
  | cons c rest ih =>
    obtain ⟨k, b⟩ := c
    by_cases h : k = a
    · subst h; rw [Memory.erase_cons_same, ih]
    · rw [Memory.erase_cons_other b rest h, Memory.read, if_neg h, ih]

theorem Memory.read_erase_other (m : Memory) {a x : Nat} (h : x ≠ a) : Memory.read (Memory.erase m a) x = Memory.read m x := by
  induction m with
  | nil => rfl
  | cons c rest ih =>
    obtain ⟨k, b⟩ := c
    by_cases hk : k = a
    · subst hk
      rw [Memory.erase_cons_same, ih, Memory.read, if_neg (Ne.symm h)]
    · rw [Memory.erase_cons_other b rest hk, Memory.read, Memory.read, ih]

theorem Memory.read_insert_same (m : Memory) (a : Nat) (b : Byte) (h : ∀ c ∈ m, c.1 ≠ a) :
    Memory.read (Memory.insert m a b) a = b := by
  induction m with
  | nil => simp [Memory.insert, Memory.read]
  | cons c rest ih =>
    obtain ⟨k, c'⟩ := c
    have hk : k ≠ a := h (k, c') (by simp)
    by_cases hlt : a < k
    · simp [Memory.insert, hlt, Memory.read]
    · simp [Memory.insert, hlt, Memory.read, hk, ih fun c hc => h c (by simp [hc])]

theorem Memory.read_insert_other (m : Memory) {a x : Nat} (b : Byte) (h : x ≠ a) :
    Memory.read (Memory.insert m a b) x = Memory.read m x := by
  have hax : ¬ a = x := fun e => h e.symm
  induction m with
  | nil => simp [Memory.insert, Memory.read, hax]
  | cons c rest ih =>
    obtain ⟨k, c'⟩ := c
    by_cases hlt : a < k
    · simp [Memory.insert, hlt, Memory.read, hax]
    · simp [Memory.insert, hlt, Memory.read, ih]

theorem Memory.erase_ne (m : Memory) (a : Nat) : ∀ c ∈ Memory.erase m a, c.1 ≠ a := by
  intro c hc
  simpa [Memory.erase] using (List.mem_filter.mp hc).2

/-- A read of the byte written. -/
@[simp] theorem Memory.read_write_same (m : Memory) (a : Nat) (b : Byte) : Memory.read (Memory.write m a b) a = b := by
  by_cases h : b = Config.unlistedByte
  · simp [Memory.write, h, Memory.read_erase_same]
  · simp [Memory.write, h, Memory.read_insert_same _ _ _ (Memory.erase_ne m a)]

/-- A read of any other byte. -/
theorem Memory.read_write_other (m : Memory) {a x : Nat} (b : Byte) (h : x ≠ a) :
    Memory.read (Memory.write m a b) x = Memory.read m x := by
  by_cases hb : b = Config.unlistedByte
  · simp [Memory.write, hb, Memory.read_erase_other m h]
  · simp [Memory.write, hb, Memory.read_insert_other _ b h, Memory.read_erase_other m h]

/-! The canonical form. -/

theorem Memory.risingFrom_mono {a b : Nat} (m : Memory) (h : a ≤ b) (hm : Memory.risingFrom b m = true) :
    Memory.risingFrom a m = true := by
  cases m with
  | nil => rfl
  | cons c rest =>
    simp only [Memory.risingFrom, Bool.and_eq_true, decide_eq_true_eq] at hm ⊢
    exact ⟨by omega, hm.2⟩

theorem Memory.risingFrom_filter {a : Nat} (m : Memory) (f : Host.Cell → Bool) (hm : Memory.risingFrom a m = true) :
    Memory.risingFrom a (m.filter f) = true := by
  induction m generalizing a with
  | nil => rfl
  | cons c rest ih =>
    obtain ⟨k, b⟩ := c
    simp only [Memory.risingFrom, Bool.and_eq_true, decide_eq_true_eq] at hm
    by_cases hf : f (k, b) = true
    · simp only [List.filter_cons, hf, if_true, Memory.risingFrom, Bool.and_eq_true, decide_eq_true_eq]
      exact ⟨hm.1, ih hm.2⟩
    · simp only [List.filter_cons, hf]
      exact Memory.risingFrom_mono _ (Nat.le_of_lt hm.1) (ih hm.2)

theorem Memory.risingFrom_insert {x a : Nat} (m : Memory) (b : Byte) (hx : x < a) (hm : Memory.risingFrom x m = true)
    (hne : ∀ c ∈ m, c.1 ≠ a) : Memory.risingFrom x (Memory.insert m a b) = true := by
  induction m generalizing x with
  | nil => simp [Memory.insert, Memory.risingFrom, hx]
  | cons c rest ih =>
    obtain ⟨k, c'⟩ := c
    simp only [Memory.risingFrom, Bool.and_eq_true, decide_eq_true_eq] at hm
    have hk : k ≠ a := hne (k, c') (by simp)
    by_cases hlt : a < k
    · simp [Memory.insert, hlt, Memory.risingFrom, hx, hm.2]
    · have hka : k < a := by omega
      simp only [Memory.insert, hlt, if_false, Memory.risingFrom, Bool.and_eq_true, decide_eq_true_eq]
      exact ⟨hm.1, ih hka hm.2 fun c hc => hne c (by simp [hc])⟩

theorem Memory.rising_erase (m : Memory) (a : Nat) (hm : Memory.rising m = true) : Memory.rising (Memory.erase m a) = true := by
  cases m with
  | nil => rfl
  | cons c rest =>
    obtain ⟨k, b⟩ := c
    by_cases hk : k = a
    · subst hk
      have h0 : Memory.erase ((k, b) :: rest) k = rest.filter fun c => c.1 ≠ k := by simp [Memory.erase]
      rw [h0]
      have h1 := Memory.risingFrom_filter rest (fun c => c.1 ≠ k) hm
      cases hr : rest.filter fun c => c.1 ≠ k with
      | nil => rfl
      | cons c' r' =>
        rw [hr] at h1
        simp only [Memory.risingFrom, Bool.and_eq_true] at h1
        exact h1.2
    · have h0 : Memory.erase ((k, b) :: rest) a = (k, b) :: rest.filter fun c => c.1 ≠ a := by simp [Memory.erase, hk]
      rw [h0]
      exact Memory.risingFrom_filter rest _ hm

theorem Memory.rising_insert (m : Memory) (a : Nat) (b : Byte) (hm : Memory.rising m = true) (hne : ∀ c ∈ m, c.1 ≠ a) :
    Memory.rising (Memory.insert m a b) = true := by
  cases m with
  | nil => rfl
  | cons c rest =>
    obtain ⟨k, c'⟩ := c
    have hk : k ≠ a := hne (k, c') (by simp)
    by_cases hlt : a < k
    · simp only [Memory.insert, hlt, if_true, Memory.rising, Memory.risingFrom, Bool.and_eq_true, decide_eq_true_eq]
      exact ⟨trivial, hm⟩
    · simp only [Memory.insert, hlt, if_false, Memory.rising]
      exact Memory.risingFrom_insert rest b (by omega) hm fun c hc => hne c (by simp [hc])

theorem Memory.mem_insert {m : Memory} {a : Nat} {b : Byte} {c : Host.Cell} (h : c ∈ Memory.insert m a b) :
    c = (a, b) ∨ c ∈ m := by
  induction m with
  | nil => simpa [Memory.insert] using h
  | cons d rest ih =>
    by_cases hlt : a < d.1
    · simpa [Memory.insert, hlt] using h
    · simp only [Memory.insert, hlt, if_false, List.mem_cons] at h ⊢
      rcases h with h | h
      · exact .inr (.inl h)
      · exact (ih h).imp_right .inr

/-- A write inside the physical address space keeps the canonical form. -/
theorem Memory.wf_write {m : Memory} {a : Nat} (b : Byte) (hm : Memory.wf m = true) (ha : a < 2 ^ Config.physAddrBits) :
    Memory.wf (Memory.write m a b) = true := by
  simp only [Memory.wf, Bool.and_eq_true, List.all_eq_true, decide_eq_true_eq] at hm ⊢
  have herase : ∀ c ∈ Memory.erase m a, c.2 ≠ Config.unlistedByte ∧ c.1 < 2 ^ Config.physAddrBits := fun c hc =>
    hm.2 c (List.mem_filter.mp hc).1
  by_cases hb : b = Config.unlistedByte
  · rw [Memory.write, if_pos hb]
    exact ⟨Memory.rising_erase m a hm.1, herase⟩
  · rw [Memory.write, if_neg hb]
    refine ⟨Memory.rising_insert _ a b (Memory.rising_erase m a hm.1) (Memory.erase_ne m a), fun c hc => ?_⟩
    rcases Memory.mem_insert hc with rfl | hc
    · exact ⟨hb, ha⟩
    · exact herase c hc

theorem State.wf_writePhys {s : State} (pa : Dword) (b : Byte) (h : Memory.wf s.mem = true) :
    Memory.wf (s.writePhys pa b).mem = true := Memory.wf_write b h pa.isLt

theorem State.wf_markPhys {s : State} (pa : Dword) (bits : Byte) (h : Memory.wf s.mem = true) :
    Memory.wf (s.markPhys pa bits).mem = true := State.wf_writePhys pa _ h

theorem State.wf_writeAt {s : State} (pas : List Dword) (bs : List Byte) (h : Memory.wf s.mem = true) :
    Memory.wf (s.writeAt pas bs).mem = true := by
  induction pas generalizing s bs with
  | nil => exact h
  | cons pa pas ih => cases bs with
    | nil => exact h
    | cons b bs => exact ih bs (State.wf_writePhys pa b h)

end Sys2Proof.Machine
end

