-- ==== Sys2Proof/Laws/Ops.lean ====
section
/-! SUPPORT. Once for each shared operation, what it can do when it answers: it writes nothing but the A and D bits of paging
(`OnlyMarks`), or exactly the field its name says; and it keeps memory in canonical form. -/

namespace Sys2Proof.Machine

/-! `OnlyMarks` is a preorder. -/

theorem OnlyMarks.refl (s : State) : OnlyMarks s s :=
  ⟨rfl, fun _ => ⟨rfl, BitVec.and_self⟩, fun _ => rfl⟩

theorem OnlyMarks.eq_with_mem {s t : State} (h : OnlyMarks s t) : t = { s with mem := t.mem } := h.1

theorem OnlyMarks.cr0 {s t : State} (h : OnlyMarks s t) : t.cr0 = s.cr0 := by rw [h.1]

theorem OnlyMarks.paging {s t : State} (h : OnlyMarks s t) : t.paging = s.paging := State.paging_congr h.cr0

theorem OnlyMarks.trans {s t u : State} (h : OnlyMarks s t) (k : OnlyMarks t u) : OnlyMarks s u := by
  refine ⟨?_, fun a => ⟨(k.2.1 a).1.trans (h.2.1 a).1, ?_⟩, fun hp => ?_⟩
  · have e := k.1
    rw [h.1] at e
    exact e
  · have h2 := (h.2.1 a).2
    have k2 := (k.2.1 a).2
    calc Memory.read s.mem a &&& Memory.read u.mem a
        = (Memory.read s.mem a &&& Memory.read t.mem a) &&& Memory.read u.mem a := by rw [h2]
      _ = Memory.read s.mem a &&& (Memory.read t.mem a &&& Memory.read u.mem a) := BitVec.and_assoc ..
      _ = Memory.read s.mem a := by rw [k2, h2]
  · rw [k.2.2 (h.paging.trans hp), h.2.2 hp]

/-- Setting A or D bits where paging is on. -/
theorem OnlyMarks.mark {s : State} (pa : Dword) {bits : Byte} (hb : bits ||| 0x60 = 0x60) (hp : s.paging = true) :
    OnlyMarks s (s.markPhys pa bits) := by
  refine ⟨rfl, fun a => ?_, fun h => absurd (hp.symm.trans h) (by simp)⟩
  by_cases ha : a = pa.toNat
  · subst ha
    have e : Memory.read (s.markPhys pa bits).mem pa.toNat = Memory.read s.mem pa.toNat ||| bits :=
      Memory.read_write_same ..
    rw [e]
    refine ⟨by rw [BitVec.or_assoc, hb], ?_⟩
    apply BitVec.eq_of_getLsbD_eq
    intro i _
    simp only [BitVec.getLsbD_and, BitVec.getLsbD_or]
    cases (Memory.read s.mem pa.toNat).getLsbD i <;> simp
  · have e : Memory.read (s.markPhys pa bits).mem a = Memory.read s.mem a := Memory.read_write_other _ _ ha
    rw [e]
    exact ⟨rfl, BitVec.and_self⟩

/-! Translation and the operand primitives. -/

/-- `PageTranslate` answers: paging is off and nothing happened, or paging is on and the walk of R50 succeeded. -/
theorem State.pageTranslate_eq_ok {s t : State} {lin pa : Dword} {kind : AccessKind} {user : Bool}
    (h : s.pageTranslate lin kind user = .ok pa t) :
    (s.paging = false ∧ pa = lin ∧ t = s) ∨
    (s.paging = true ∧
      (s.physRead32 (s.pdeAddr lin)).getLsbD 0 = true ∧
      (s.physRead32 (pteAddr (s.physRead32 (s.pdeAddr lin)) lin)).getLsbD 0 = true ∧
      pageDenied kind user (s.physRead32 (s.pdeAddr lin)) (s.physRead32 (pteAddr (s.physRead32 (s.pdeAddr lin)) lin)) = false ∧
      pa = ((s.physRead32 (pteAddr (s.physRead32 (s.pdeAddr lin)) lin)) &&& 0xFFFFF000) ||| (lin &&& 0xFFF) ∧
      t = (s.markPhys (s.pdeAddr lin) 0x20).markPhys (pteAddr (s.physRead32 (s.pdeAddr lin)) lin)
        (if kind = .write then 0x60 else 0x20)) := by
  unfold State.pageTranslate at h
  by_cases hp : s.paging = true
  · right
    simp only [hp, Bool.not_true, Bool.false_eq_true, if_false] at h
    split at h
    · exact absurd h (by simp)
    · split at h
      · exact absurd h (by simp)
      · split at h
        · exact absurd h (by simp)
        · injection h with h1 h2
          simp_all
  · left
    simp only [hp, Bool.not_false, if_true] at h
    injection h with h1 h2
    exact ⟨by simpa using hp, h1.symm, h2.symm⟩

theorem State.pageTranslate_onlyMarks {s t : State} {lin pa : Dword} {kind : AccessKind} {user : Bool}
    (h : s.pageTranslate lin kind user = .ok pa t) : OnlyMarks s t := by
  rcases State.pageTranslate_eq_ok h with ⟨-, -, rfl⟩ | ⟨hp, -, -, -, -, rfl⟩
  · exact OnlyMarks.refl _
  · refine (OnlyMarks.mark _ (by decide) hp).trans (OnlyMarks.mark _ ?_ ?_)
    · split <;> decide
    · exact hp

theorem State.pageTranslate_wf {s t : State} {lin pa : Dword} {kind : AccessKind} {user : Bool}
    (h : s.pageTranslate lin kind user = .ok pa t) (hw : Memory.wf s.mem = true) : Memory.wf t.mem = true := by
  rcases State.pageTranslate_eq_ok h with ⟨-, -, rfl⟩ | ⟨-, -, -, -, -, rfl⟩
  · exact hw
  · exact State.wf_markPhys _ _ (State.wf_markPhys _ _ hw)

/-- An operation that at most sets A and D bits and keeps memory canonical when it answers. -/
def Access.MarksOnly {α : Type} (s : State) (m : Access α) : Prop :=
  ∀ a t, m = .ok a t → OnlyMarks s t ∧ (Memory.wf s.mem = true → Memory.wf t.mem = true)

theorem Access.MarksOnly.pure {α : Type} (s : State) (a : α) : Access.MarksOnly s (.ok a s) := by
  intro b t h
  injection h with _ h
  subst h
  exact ⟨OnlyMarks.refl _, id⟩

theorem Access.MarksOnly.check {α : Type} (s : State) (c : Except Exc α) : Access.MarksOnly s (Access.check c s) := by
  intro a t h
  obtain ⟨-, rfl⟩ := Access.check_eq_ok.mp h
  exact ⟨OnlyMarks.refl _, id⟩

theorem Access.MarksOnly.andThen {α β : Type} {s : State} {m : Access α} {f : α → State → Access β}
    (hm : Access.MarksOnly s m) (hf : ∀ a t, Access.MarksOnly t (f a t)) : Access.MarksOnly s (m.andThen f) := by
  intro b u h
  obtain ⟨a, t, h1, h2⟩ := Access.andThen_eq_ok.mp h
  have k1 := hm a t h1
  have k2 := hf a t b u h2
  exact ⟨k1.1.trans k2.1, fun w => k2.2 (k1.2 w)⟩

theorem State.pageTranslate_marks (s : State) (lin : Dword) (kind : AccessKind) (user : Bool) :
    Access.MarksOnly s (s.pageTranslate lin kind user) := fun _ _ h =>
  ⟨State.pageTranslate_onlyMarks h, State.pageTranslate_wf h⟩

theorem State.translateAll_marks (s : State) (lin : Dword) (kind : AccessKind) (user : Bool) (n : Nat) :
    Access.MarksOnly s (s.translateAll lin kind user n) := by
  induction n generalizing s lin with
  | zero => exact Access.MarksOnly.pure s _
  | succ n ih =>
    exact (State.pageTranslate_marks s lin kind user).andThen fun pa t =>
      (ih t (lin + 1)).andThen fun pas u => Access.MarksOnly.pure u _

theorem State.openOperand_marks (s : State) (seg : SegReg) (off : Dword) (w : Width) (kind : AccessKind) :
    Access.MarksOnly s (s.openOperand seg off w kind) :=
  (Access.MarksOnly.check s _).andThen fun lin t => State.translateAll_marks t lin kind t.user w.bytes

theorem State.memRead_marks (s : State) (seg : SegReg) (off : Dword) (w : Width) :
    Access.MarksOnly s (s.memRead seg off w) :=
  (State.openOperand_marks s seg off w .read).andThen fun _ t => Access.MarksOnly.pure t _

theorem State.readLinear16_marks (s : State) (lin : Dword) : Access.MarksOnly s (s.readLinear16 lin) :=
  (State.translateAll_marks s lin .read false 2).andThen fun _ t => Access.MarksOnly.pure t _

theorem State.ioPermission_marks (s : State) (port : Half) (n : Nat) : Access.MarksOnly s (s.ioPermission port n) := by
  unfold State.ioPermission
  split
  · exact Access.MarksOnly.pure s _
  · refine (State.readLinear16_marks s _).andThen fun iobase t => ?_
    dsimp only
    split
    · exact Access.MarksOnly.pure t _
    · exact (State.readLinear16_marks t _).andThen fun _ u => Access.MarksOnly.pure u _

theorem State.ioCheck_marks (s : State) (port : Half) (n : Nat) : Access.MarksOnly s (s.ioCheck port n) := by
  unfold State.ioCheck
  split
  · refine (State.ioPermission_marks s port n).andThen fun b t => ?_
    split
    · exact Access.MarksOnly.pure t _
    · intro a u h
      exact absurd h (by simp)
  · exact Access.MarksOnly.pure s _

theorem State.fetchByte_marks (s : State) (k : Nat) : Access.MarksOnly s (s.fetchByte k) := by
  unfold State.fetchByte
  split
  · intro a u h
    exact absurd h (by simp)
  · exact (Access.MarksOnly.check s _).andThen fun lin t =>
      (State.pageTranslate_marks t lin .fetch t.user).andThen fun _ u => Access.MarksOnly.pure u _

theorem State.fetchFrom_marks (s : State) (got : List Byte) (fuel : Nat) : Access.MarksOnly s (s.fetchFrom got fuel) := by
  induction fuel generalizing s got with
  | zero =>
    intro a u h
    exact absurd h (by simp [State.fetchFrom])
  | succ fuel ih =>
    unfold State.fetchFrom
    split
    · exact Access.MarksOnly.pure s _
    · intro a u h
      exact absurd h (by simp)
    · exact (State.fetchByte_marks s got.length).andThen fun b t => ih t (got ++ [b])

theorem State.fetch_marks (s : State) : Access.MarksOnly s s.fetch := State.fetchFrom_marks s [] 16

/-! Operations that write one field. -/

/-- The advance of EIP (R15). -/
theorem State.advance_eq_ok {s t : State} {len : Nat} :
    s.advance len = .ok () t ↔ s.canAdvance len ∧ t = { s with eip := s.eip + BitVec.ofNat 32 len } := by
  unfold State.advance State.canAdvance
  split
  · rename_i h
    simp only [reduceCtorEq, false_iff, not_and]
    intro h'
    omega
  · rename_i h
    simp only [Access.ok.injEq, true_and, eq_comm (b := t)]
    exact ⟨fun e => ⟨by omega, e⟩, fun e => e.2⟩

theorem State.advance_of_canAdvance {s : State} {len : Nat} (h : s.canAdvance len) :
    s.advance len = .ok () { s with eip := s.eip + BitVec.ofNat 32 len } :=
  State.advance_eq_ok.mpr ⟨h, rfl⟩

/-- The port write (R31). -/
theorem State.ioWrite_eq_ok {s t : State} {port : Half} {w : Width} {v : BitVec w.bits} :
    s.ioWrite port w v = .ok () t ↔
      port.toNat + w.bytes ≤ 65536 ∧ t = { s with io := s.io ++ [⟨port, w, v.setWidth 32⟩] } := by
  unfold State.ioWrite
  split
  · rename_i h
    simp only [reduceCtorEq, false_iff, not_and]
    intro h'
    omega
  · rename_i h
    simp only [Access.ok.injEq, true_and, eq_comm (b := t)]
    exact ⟨fun e => ⟨by omega, e⟩, fun e => e.2⟩

/-- Taking an exception answers a next state only by delivery, in real-address mode, and then records the exception (R183). -/
theorem State.takeException_eq_next {s t : State} {e : Exc} (h : s.takeException e = .next t) :
    s.launch.deliver = .vectorTable ∧ s.mode = .real ∧
      ∃ u, (s.atException e).enterReal e.vector = .ok () u ∧ t = u.recordDelivery e := by
  unfold State.takeException at h
  split at h
  · rename_i hd hm
    split at h
    · rename_i u hu
      injection h with h
      exact ⟨hd, hm, u, hu, h.symm⟩
    · exact absurd h (by simp)
    · exact absurd h (by simp)
  · exact absurd h (by simp)

/-- The read-modify-write (R53): what it stores and answers, once the operand is open and the store is not refused. -/
theorem State.memUpdate_of_open {s s1 : State} {seg : SegReg} {off : Dword} {w : Width} {len : Nat} {pas : List Dword}
    (f : BitVec w.bits → BitVec w.bits) (h : s.openOperand seg off w .write = .ok pas s1) (hr : s1.storeRefusal len pas = none) :
    s.memUpdate seg off w len f =
      .ok (f (s1.readAt w pas)) (s1.writeAt pas (leBytes (f (s1.readAt w pas)) w.bytes)) := by
  simp only [State.memUpdate, h, Access.andThen_ok, hr]

end Sys2Proof.Machine
end

