-- ==== Sys2Proof/Laws/PerInstr.lean ====
section
/-! SUPPORT. Statements about every instruction as syntax, one lemma per constructor: the length of an encoding (R71, R91). -/

namespace Sys2Proof.Laws.Length

/-- The encoding has the length of R15 and R71, at least one byte and, as R91 counts, at most fourteen. -/
def Statement (i : Instr) : Prop := (encode i).length = i.len ∧ 1 ≤ i.len ∧ i.len ≤ 14

@[simp] theorem prefixes_encode (p : Prefixes) : p.encode.length = p.len := by
  obtain ⟨o, a, g⟩ := p
  cases o <;> cases a <;> cases g <;> rfl

theorem prefixes_le (p : Prefixes) : p.len ≤ 3 := by
  obtain ⟨o, a, g⟩ := p
  cases o <;> cases a <;> cases g <;> simp [Prefixes.len]

@[simp] theorem rm_encode (reg : BitVec 3) (rm : RM) : (rm.encode reg).length = rm.len := by
  cases rm with
  | reg r => rfl
  | mem a => cases a with
    | direct16 d => rfl
    | based16 b d => cases d <;> rfl
    | direct32 d => rfl
    | based32 r d => cases d <;> rfl
    | sib base ix d => cases d <;> rfl
    | sibNoBase ix d => rfl

theorem rm_le (rm : RM) : rm.len ≤ 6 := by
  cases rm with
  | reg r => simp [RM.len]
  | mem a => cases a with
    | direct16 d => simp [RM.len]
    | based16 b d => cases d <;> simp [RM.len, Disp16.len]
    | direct32 d => simp [RM.len]
    | based32 r d => cases d <;> simp [RM.len, Disp32.len]
    | sib base ix d => cases d <;> simp [RM.len, Disp32.len]
    | sibNoBase ix d => simp [RM.len]

@[simp] theorem half (v : Half) : (halfBytes v).length = 2 := rfl

@[simp] theorem dword (v : Dword) : (dwordBytes v).length = 4 := rfl

theorem orAlImm8 (p : Prefixes) (imm : Byte) : Statement (.orAlImm8 p imm) := by
  have := prefixes_le p
  simp [Statement, encode, Instr.len]
  omega

theorem orAxImm16 (p : Prefixes) (imm : Half) : Statement (.orAxImm16 p imm) := by
  have := prefixes_le p
  simp [Statement, encode, Instr.len]
  omega

theorem orEaxImm32 (p : Prefixes) (imm : Dword) : Statement (.orEaxImm32 p imm) := by
  have := prefixes_le p
  simp [Statement, encode, Instr.len]
  omega

theorem orRm8Imm8 (p : Prefixes) (rm : RM) (imm : Byte) : Statement (.orRm8Imm8 p rm imm) := by
  have := prefixes_le p
  have := rm_le rm
  simp [Statement, encode, Instr.len]
  omega

theorem orRm16Imm16 (p : Prefixes) (rm : RM) (imm : Half) : Statement (.orRm16Imm16 p rm imm) := by
  have := prefixes_le p
  have := rm_le rm
  simp [Statement, encode, Instr.len]
  omega

theorem orRm32Imm32 (p : Prefixes) (rm : RM) (imm : Dword) : Statement (.orRm32Imm32 p rm imm) := by
  have := prefixes_le p
  have := rm_le rm
  simp [Statement, encode, Instr.len]
  omega

theorem orRm16Imm8 (p : Prefixes) (rm : RM) (imm : Byte) : Statement (.orRm16Imm8 p rm imm) := by
  have := prefixes_le p
  have := rm_le rm
  simp [Statement, encode, Instr.len]
  omega

theorem orRm32Imm8 (p : Prefixes) (rm : RM) (imm : Byte) : Statement (.orRm32Imm8 p rm imm) := by
  have := prefixes_le p
  have := rm_le rm
  simp [Statement, encode, Instr.len]
  omega

theorem orRm8R8 (p : Prefixes) (rm : RM) (r : Reg) : Statement (.orRm8R8 p rm r) := by
  have := prefixes_le p
  have := rm_le rm
  simp [Statement, encode, Instr.len]
  omega

theorem orRm16R16 (p : Prefixes) (rm : RM) (r : Reg) : Statement (.orRm16R16 p rm r) := by
  have := prefixes_le p
  have := rm_le rm
  simp [Statement, encode, Instr.len]
  omega

theorem orRm32R32 (p : Prefixes) (rm : RM) (r : Reg) : Statement (.orRm32R32 p rm r) := by
  have := prefixes_le p
  have := rm_le rm
  simp [Statement, encode, Instr.len]
  omega

theorem orR8Rm8 (p : Prefixes) (r : Reg) (rm : RM) : Statement (.orR8Rm8 p r rm) := by
  have := prefixes_le p
  have := rm_le rm
  simp [Statement, encode, Instr.len]
  omega

theorem orR16Rm16 (p : Prefixes) (r : Reg) (rm : RM) : Statement (.orR16Rm16 p r rm) := by
  have := prefixes_le p
  have := rm_le rm
  simp [Statement, encode, Instr.len]
  omega

theorem orR32Rm32 (p : Prefixes) (r : Reg) (rm : RM) : Statement (.orR32Rm32 p r rm) := by
  have := prefixes_le p
  have := rm_le rm
  simp [Statement, encode, Instr.len]
  omega

theorem outImm8Al (p : Prefixes) (port : Byte) : Statement (.outImm8Al p port) := by
  have := prefixes_le p
  simp [Statement, encode, Instr.len]
  omega

theorem outImm8Ax (p : Prefixes) (port : Byte) : Statement (.outImm8Ax p port) := by
  have := prefixes_le p
  simp [Statement, encode, Instr.len]
  omega

theorem outImm8Eax (p : Prefixes) (port : Byte) : Statement (.outImm8Eax p port) := by
  have := prefixes_le p
  simp [Statement, encode, Instr.len]
  omega

theorem outDxAl (p : Prefixes) : Statement (.outDxAl p) := by
  have := prefixes_le p
  simp [Statement, encode, Instr.len]
  omega

theorem outDxAx (p : Prefixes) : Statement (.outDxAx p) := by
  have := prefixes_le p
  simp [Statement, encode, Instr.len]
  omega

theorem outDxEax (p : Prefixes) : Statement (.outDxEax p) := by
  have := prefixes_le p
  simp [Statement, encode, Instr.len]
  omega

theorem outsDxRm8 (p : Prefixes) : Statement (.outsDxRm8 p) := by
  have := prefixes_le p
  simp [Statement, encode, Instr.len]
  omega

theorem outsDxRm16 (p : Prefixes) : Statement (.outsDxRm16 p) := by
  have := prefixes_le p
  simp [Statement, encode, Instr.len]
  omega

theorem outsDxRm32 (p : Prefixes) : Statement (.outsDxRm32 p) := by
  have := prefixes_le p
  simp [Statement, encode, Instr.len]
  omega

theorem outsb (p : Prefixes) : Statement (.outsb p) := by
  have := prefixes_le p
  simp [Statement, encode, Instr.len]
  omega

theorem outsw (p : Prefixes) : Statement (.outsw p) := by
  have := prefixes_le p
  simp [Statement, encode, Instr.len]
  omega

theorem outsd (p : Prefixes) : Statement (.outsd p) := by
  have := prefixes_le p
  simp [Statement, encode, Instr.len]
  omega

theorem repOutsb (p : Prefixes) : Statement (.repOutsb p) := by
  have := prefixes_le p
  simp [Statement, encode, Instr.len]
  omega

theorem repOutsw (p : Prefixes) : Statement (.repOutsw p) := by
  have := prefixes_le p
  simp [Statement, encode, Instr.len]
  omega

theorem repOutsd (p : Prefixes) : Statement (.repOutsd p) := by
  have := prefixes_le p
  simp [Statement, encode, Instr.len]
  omega

end Sys2Proof.Laws.Length
end

