-- ==== Sys2Proof/Tests/Slice0.lean ====
section
/-! SUPPORT. Tests: the checks of WellFormed, hand-written words of every constructor, one-step vectors of 95_test_vectors.md, and for each
statement with hypotheses a state that meets them. Vector names are those of 95_test_vectors.md. -/

namespace Sys2Proof.Tests

open Sys2Proof Sys2Proof.Machine

/-! Small states. -/

/-- No prefix byte. -/
def p0 : Prefixes := ⟨false, false, none⟩
/-- 66h. -/
def p66 : Prefixes := ⟨true, false, none⟩
/-- 67h. -/
def p67 : Prefixes := ⟨false, true, none⟩

/-- A real-mode segment (R47). -/
def rseg (sel : Half) : Segment := { Segment.resetData with selector := sel, base := sel.setWidth 32 <<< 4 }

/-- `real16` of 95_test_vectors.md: code at 0000:0100. -/
def real (bytes : List Byte) : State :=
  { State.reset with
    eip := 0x100
    regs := ⟨0, 0, 0, 0, 0, 0, 0, 0⟩
    segs := ⟨rseg 0, rseg 0, rseg 0, rseg 0, rseg 0, rseg 0⟩ }.placeCode 0x100 bytes

/-- A flat segment. -/
def flat : Segment := { Segment.resetData with selector := 8, limit := 0xFFFFFFFF }

/-- Protected mode with flat segments, CS not writable: code at 100h. -/
def prot (d : Size) (cpl iopl : BitVec 2) (bytes : List Byte) : State :=
  { State.reset with
    eip := 0x100
    cr0 := 1
    cpl := cpl
    csDefaultSize := d
    eflags := { State.reset.eflags with IOPL := iopl }
    regs := ⟨0, 0, 0, 0, 0, 0, 0, 0⟩
    segs := ⟨flat, { flat with writable := false }, flat, flat, flat, flat⟩ }.placeCode 0x100 bytes

/-- `v86` of 95_test_vectors.md. -/
def v86 (iopl : BitVec 2) (bytes : List Byte) : State :=
  { real bytes with cr0 := 1, cpl := 3, eflags := { State.reset.eflags with VM := true, IOPL := iopl } }

/-- Bytes at physical addresses from `a` on. -/
def put (s : State) (a : Dword) (bs : List Byte) : State := s.writeAt (addrRange a bs.length) bs

/-- A 386 TSS at 200000h whose bitmap starts at 68h and has `b` as the byte `k` of it. -/
def tss (s : State) (k : Dword) (b : Byte) : State :=
  put (put { s with tr := ⟨0x28, 0x200000, 0x2100, .tss386⟩ } 0x200066 [0x68, 0]) (0x200068 + k) [b]

def regs (s : State) (r : Regs) : State := { s with regs := r }
def ds (s : State) (sel : Half) : State := { s with segs := { s.segs with ds := rseg sel } }
def df (s : State) : State := { s with eflags := { s.eflags with DF := true } }

/-- The page tables of Part 4 of 95_test_vectors.md: linear 00402ABC at 00025ABC, the last entry as given, code page mapped to itself. -/
def paged (cpl : BitVec 2) (pte : Byte) (bytes : List Byte) : State :=
  let s := prot .s16 cpl 0 bytes
  let s := { s with
    cr0 := 0x80000001, cr3 := 0x10000, segs := { s.segs with ds := { flat with base := 0x402000 } }
    regs := { s.regs with eax := 0x80, ebx := 0xABC } }
  put (put (put (put (put s 0x10000 [0x07, 0x20, 0x01]) 0x12000 [0x07]) 0x10004 [0x07, 0x10, 0x01]) 0x11008
    [pte, 0x50, 0x02]) 0x25ABC [1]

/-- A field of the state an outcome answers. -/
def peek {α : Type} (o : Host.Outcome State Fault Refusal) (f : State → α) : Option α :=
  match o with
  | .next t => some (f t)
  | .fault _ => none
  | .refused _ => none

/-- CF, OF, SF, ZF, PF. -/
def fl (s : State) : List Bool := [s.eflags.CF, s.eflags.OF, s.eflags.SF, s.eflags.ZF, s.eflags.PF]

/-- What an outcome that ends in an exception raised, and where EIP is. -/
def raised (o : Host.Outcome State Fault Refusal) : Option (Exc × Dword) :=
  match o with
  | .fault (.exception e t) => some (e, t.eip)
  | .fault (.deliveryFailed _ _ _) => none
  | .next _ => none
  | .refused _ => none

/-- The exception whose delivery failed, and the one that arose during it. -/
def failedDelivery (o : Host.Outcome State Fault Refusal) : Option (Exc × Exc) :=
  match o with
  | .fault (.deliveryFailed e during _) => some (e, during)
  | .fault (.exception _ _) => none
  | .next _ => none
  | .refused _ => none

/-- The name an outcome is refused by. -/
def refusedBy (o : Host.Outcome State Fault Refusal) : Option Refusal :=
  match o with
  | .refused r => some r
  | .next _ => none
  | .fault _ => none

/-- The bytes of memory at some addresses. -/
def bytesAt (s : State) (as : List Nat) : List Byte := as.map (Memory.read s.mem)

/-! WellFormed: a well-formed term, then an ill-formed one for each check. -/

theorem test_wf_accepts : (Instr.orRm16R16 p0 (.mem (.based16 .bp (.d8 0))) .eax).wf .s16 = true := by decide
theorem test_wf_bp_needs_displacement : (Instr.orRm8R8 p0 (.mem (.based16 .bp .none)) .eax).wf .s16 = false := by decide
theorem test_wf_esp_needs_sib : (Instr.orRm8R8 p0 (.mem (.based32 .esp (.d8 0))) .eax).wf .s32 = false := by decide
theorem test_wf_ebp_needs_displacement : (Instr.orRm8R8 p0 (.mem (.based32 .ebp .none)) .eax).wf .s32 = false := by decide
theorem test_wf_sib_ebp_needs_displacement : (Instr.orRm8R8 p0 (.mem (.sib .ebp .none .none)) .eax).wf .s32 = false := by decide
theorem test_wf_index_not_esp : (Instr.orRm8R8 p0 (.mem (.sib .eax (.scaled .esp 0) .none)) .eax).wf .s32 = false := by decide
theorem test_wf_index_not_esp_no_base : (Instr.orRm8R8 p0 (.mem (.sibNoBase (.scaled .esp 0) 0)) .eax).wf .s32 = false := by decide
theorem test_wf_address_size : (Instr.orRm8R8 p67 (.mem (.based16 .bx .none)) .eax).wf .s16 = false := by decide
theorem test_wf_operand_size : (Instr.orAxImm16 p66 0).wf .s16 = false := by decide
theorem test_wf_operand_size_dword : (Instr.outDxEax p0).wf .s16 = false := by decide
theorem test_wf_outs_operand_needs_segment : (Instr.outsDxRm8 p0).wf .s16 = false := by decide
theorem test_wf_outsb_has_no_segment : (Instr.outsb ⟨false, false, some .es⟩).wf .s16 = false := by decide

/-! Words written out from the encodings of 30_encoding.md (R71, R79, R84, R88), one per constructor. -/

-- 0C ib (vector V3); 0D iw (V5); 66 0D id (V6)
theorem test_decode_orAlImm8 : decode .s16 [0x0C, 0x80] = .done (.orAlImm8 p0 0x80) [] := by decide
theorem test_decode_orAxImm16 : decode .s16 [0x0D, 0x00, 0x01] = .done (.orAxImm16 p0 0x0100) [] := by decide
theorem test_decode_orEaxImm32 :
    decode .s16 [0x66, 0x0D, 0x78, 0x56, 0x34, 0x12] = .done (.orEaxImm32 p66 0x12345678) [] := by decide
-- 80 CC = 11 001 100 (V8); 81 0E = 00 001 110 (V11); 81 0B = 00 001 011 (P3); 83 CE = 11 001 110 (V13); 83 CB = 11 001 011 (V14)
theorem test_decode_orRm8Imm8 : decode .s16 [0x80, 0xCC, 0x0F] = .done (.orRm8Imm8 p0 (.reg .esp) 0x0F) [] := by decide
theorem test_decode_orRm16Imm16 :
    decode .s16 [0x81, 0x0E, 0x00, 0x03, 0xF0, 0x0F] = .done (.orRm16Imm16 p0 (.mem (.direct16 0x0300)) 0x0FF0) [] := by decide
theorem test_decode_orRm32Imm32 :
    decode .s32 [0x81, 0x0B, 0x00, 0x00, 0x00, 0x80] = .done (.orRm32Imm32 p0 (.mem (.based32 .ebx .none)) 0x80000000) [] := by
  decide
theorem test_decode_orRm16Imm8 : decode .s16 [0x83, 0xCE, 0xFF] = .done (.orRm16Imm8 p0 (.reg .esi) 0xFF) [] := by decide
theorem test_decode_orRm32Imm8 : decode .s16 [0x66, 0x83, 0xCB, 0x80] = .done (.orRm32Imm8 p66 (.reg .ebx) 0x80) [] := by decide
-- 08 C7 = 11 000 111 (V16); 09 D1 = 11 010 001 (V18); 09 44 8A FC (V30); 0A 07 (V19); 0B 46 02 (V20); 66 0B 1E 34 12 (V21)
theorem test_decode_orRm8R8 : decode .s16 [0x08, 0xC7] = .done (.orRm8R8 p0 (.reg .edi) .eax) [] := by decide
theorem test_decode_orRm16R16 : decode .s16 [0x09, 0xD1] = .done (.orRm16R16 p0 (.reg .ecx) .edx) [] := by decide
theorem test_decode_orRm32R32 :
    decode .s32 [0x09, 0x44, 0x8A, 0xFC] = .done (.orRm32R32 p0 (.mem (.sib .edx (.scaled .ecx 2) (.d8 0xFC))) .eax) [] := by
  decide
theorem test_decode_orR8Rm8 : decode .s16 [0x0A, 0x07] = .done (.orR8Rm8 p0 .eax (.mem (.based16 .bx .none))) [] := by decide
theorem test_decode_orR16Rm16 :
    decode .s16 [0x0B, 0x46, 0x02] = .done (.orR16Rm16 p0 .eax (.mem (.based16 .bp (.d8 2)))) [] := by decide
theorem test_decode_orR32Rm32 :
    decode .s16 [0x66, 0x0B, 0x1E, 0x34, 0x12] = .done (.orR32Rm32 p66 .ebx (.mem (.direct16 0x1234))) [] := by decide
-- E6 ib (O1); E7 ib; 66 E7 ib (O2); EE (O3); EF; 66 EF (O6)
theorem test_decode_outImm8Al : decode .s16 [0xE6, 0xFF] = .done (.outImm8Al p0 0xFF) [] := by decide
theorem test_decode_outImm8Ax : decode .s16 [0xE7, 0x10] = .done (.outImm8Ax p0 0x10) [] := by decide
theorem test_decode_outImm8Eax : decode .s16 [0x66, 0xE7, 0x10] = .done (.outImm8Eax p66 0x10) [] := by decide
theorem test_decode_outDxAl : decode .s16 [0xEE] = .done (.outDxAl p0) [] := by decide
theorem test_decode_outDxAx : decode .s32 [0x66, 0xEF] = .done (.outDxAx p66) [] := by decide
theorem test_decode_outDxEax : decode .s16 [0x66, 0xEF] = .done (.outDxEax p66) [] := by decide
-- 26 6E (S6), 26 6F, 26 66 6F; 6E (S1), 6F (S2), 66 6F (S4)
theorem test_decode_outsDxRm8 : decode .s16 [0x26, 0x6E] = .done (.outsDxRm8 ⟨false, false, some .es⟩) [] := by decide
theorem test_decode_outsDxRm16 : decode .s16 [0x64, 0x6F] = .done (.outsDxRm16 ⟨false, false, some .fs⟩) [] := by decide
theorem test_decode_outsDxRm32 : decode .s16 [0x65, 0x66, 0x6F] = .done (.outsDxRm32 ⟨true, false, some .gs⟩) [] := by decide
theorem test_decode_outsb : decode .s16 [0x6E] = .done (.outsb p0) [] := by decide
theorem test_decode_outsw : decode .s16 [0x6F] = .done (.outsw p0) [] := by decide
theorem test_decode_outsd : decode .s16 [0x66, 0x6F] = .done (.outsd p66) [] := by decide
-- F3 6E (Q1), F3 6F (Q3), F3 66 67 6F (Q4)
theorem test_decode_repOutsb : decode .s16 [0xF3, 0x6E] = .done (.repOutsb p0) [] := by decide
theorem test_decode_repOutsw : decode .s16 [0xF3, 0x6F] = .done (.repOutsw p0) [] := by decide
theorem test_decode_repOutsd : decode .s16 [0xF3, 0x66, 0x67, 0x6F] = .done (.repOutsd ⟨true, true, none⟩) [] := by decide

/-- Addressing bytes A1 to A13: the operand's segment and offset. -/
def place (d : Size) (bytes : List Byte) (r : Regs) : Option (SegReg × Dword × Nat) :=
  match decode d bytes with
  | .done (.orRm8R8 p (.mem a) q) [] =>
    some (p.segFor a.defaultSeg, (regs State.reset r).offsetOf a, Instr.len (.orRm8R8 p (.mem a) q))
  | _ => none

theorem test_address_16 :
    place .s16 [0x08, 0x00] ⟨0, 0, 0, 0x1000, 0, 0, 0x234, 0⟩ = some (.ds, 0x1234, 2) ∧
    place .s16 [0x08, 0x42, 0xFE] ⟨0, 0, 0, 0, 0, 0x100, 0x10, 0⟩ = some (.ss, 0x010E, 3) ∧
    place .s16 [0x08, 0x06, 0x34, 0x12] ⟨0, 0, 0, 0, 0, 0, 0, 0⟩ = some (.ds, 0x1234, 4) ∧
    place .s16 [0x08, 0x46, 0x00] ⟨0, 0, 0, 0, 0, 0x100, 0, 0⟩ = some (.ss, 0x0100, 3) ∧
    place .s16 [0x08, 0x87, 0x00, 0x80] ⟨0, 0, 0, 0x9000, 0, 0, 0, 0⟩ = some (.ds, 0x1000, 4) ∧
    place .s16 [0x08, 0x41, 0x80] ⟨0, 0, 0, 0, 0, 0, 0, 0x10⟩ = some (.ds, 0xFF90, 3) := by decide

theorem test_address_32 :
    place .s32 [0x08, 0x05, 0x78, 0x56, 0x34, 0x12] ⟨0, 0, 0, 0, 0, 0, 0, 0⟩ = some (.ds, 0x12345678, 6) ∧
    place .s32 [0x08, 0x04, 0x24] ⟨0, 0, 0, 0, 0x8000, 0, 0, 0⟩ = some (.ss, 0x8000, 3) ∧
    place .s32 [0x08, 0x04, 0x2D, 0x00, 0x10, 0x00, 0x00] ⟨0, 0, 0, 0, 0, 0x20, 0, 0⟩ = some (.ds, 0x1020, 7) ∧
    place .s32 [0x08, 0x44, 0x6D, 0x08] ⟨0, 0, 0, 0, 0, 0x100, 0, 0⟩ = some (.ss, 0x308, 4) ∧
    place .s32 [0x08, 0x04, 0xC8] ⟨0x1000, 3, 0, 0, 0, 0, 0, 0⟩ = some (.ds, 0x1018, 3) ∧
    place .s32 [0x08, 0x84, 0x98, 0x00, 0x00, 0x00, 0x80] ⟨0x80000000, 0, 0, 0x40000001, 0, 0, 0, 0⟩ = some (.ds, 4, 7) ∧
    place .s32 [0x08, 0x45, 0x00] ⟨0, 0, 0, 0, 0, 0x4000, 0, 0⟩ = some (.ss, 0x4000, 3) := by decide

/-- X1 to X12: what the decoder refuses, by name. -/
theorem test_decode_refusals :
    decode .s16 [0xF0, 0x09, 0x07] = .bad .prefixNotSpecified ∧ decode .s16 [0xF2, 0x0C, 0x01] = .bad .prefixNotSpecified ∧
    decode .s16 [0xF3, 0x0C, 0x01] = .bad .prefixNotSpecified ∧ decode .s16 [0x66, 0x66, 0x0D, 0x01, 0x00] = .bad .repeatedPrefix ∧
    decode .s16 [0x80, 0xC0, 0x01] = .bad .opcodeNotInSpec ∧ decode .s16 [0x82, 0xC8, 0x01] = .bad .opcodeNotInSpec ∧
    decode .s16 [0x0F, 0x0B] = .bad .opcodeNotInSpec ∧ decode .s16 [0xEC] = .bad .opcodeNotInSpec ∧
    decode .s16 [0x67, 0x09, 0x04, 0x60] = .bad .sibIndexScale ∧ decode .s16 [0x2E, 0x3E, 0x08, 0x07] = .bad .repeatedPrefix ∧
    decode .s16 [0xF3, 0xE6, 0x80] = .bad .prefixNotSpecified ∧ decode .s16 [0x90] = .bad .opcodeNotInSpec := by decide

/-! One step of each instruction: the vectors of 95_test_vectors.md (AF is never looked at). -/

-- V3
theorem test_orAlImm8 :
    let o := step (regs (real [0x0C, 0x80]) ⟨0xFFFFFF01, 0, 0, 0, 0, 0, 0, 0⟩)
    peek o (·.regs.eax) = some 0xFFFFFF81 ∧ peek o fl = some [false, false, true, false, true] ∧ peek o (·.eip) = some 0x102 := by
  decide
-- V4
theorem test_orAxImm16_zero_of_ax_alone :
    let o := step (regs (real [0x0D, 0x00, 0x00]) ⟨0xABCD0000, 0, 0, 0, 0, 0, 0, 0⟩)
    peek o (·.regs.eax) = some 0xABCD0000 ∧ peek o fl = some [false, false, false, true, true] := by decide
-- V6
theorem test_orEaxImm32 :
    let o := step (real [0x66, 0x0D, 0xFF, 0xFF, 0xFF, 0xFF])
    peek o (·.regs.eax) = some 0xFFFFFFFF ∧ peek o fl = some [false, false, true, false, true] ∧ peek o (·.eip) = some 0x106 := by
  decide
-- V8, V10
theorem test_orRm8Imm8_high_byte :
    let o := step (regs (real [0x80, 0xCC, 0x0F]) ⟨0xF0AA, 0, 0, 0, 0, 0, 0, 0⟩)
    peek o (·.regs.eax) = some 0xFFAA ∧ peek o (·.eip) = some 0x103 := by decide
theorem test_orRm8Imm8_memory :
    let o := step (regs (put (ds (real [0x80, 0x0F, 0x80]) 0x2000) 0x20200 [1]) ⟨0, 0, 0, 0x200, 0, 0, 0, 0⟩)
    peek o (bytesAt · [0x20200]) = some [0x81] ∧ peek o fl = some [false, false, true, false, true] := by decide
-- V11
theorem test_orRm16Imm16 :
    let o := step (put (ds (real [0x81, 0x0E, 0x00, 0x03, 0xF0, 0x0F]) 0x2000) 0x20300 [0x0F])
    peek o (bytesAt · [0x20300, 0x20301]) = some [0xFF, 0x0F] ∧ peek o fl = some [false, false, false, false, true] ∧
      peek o (·.eip) = some 0x106 := by decide
-- P3, first instruction
theorem test_orRm32Imm32 :
    let o := step (put (regs (prot .s32 3 0 [0x81, 0x0B, 0x00, 0x00, 0x00, 0x80]) ⟨0, 0, 0, 0x2000, 0, 0, 0, 0⟩) 0x2000 [0, 1])
    peek o (bytesAt · [0x2000, 0x2001, 0x2002, 0x2003]) = some [0, 1, 0, 0x80] ∧
      peek o fl = some [false, false, true, false, true] := by decide
-- V12, V13
theorem test_orRm16Imm8_positive :
    let o := step (regs (real [0x83, 0xCE, 0x7F]) ⟨0, 0, 0, 0, 0, 0, 0xAAAA0000, 0⟩)
    peek o (·.regs.esi) = some 0xAAAA007F ∧ peek o fl = some [false, false, false, false, false] := by decide
theorem test_orRm16Imm8_negative :
    let o := step (regs (real [0x83, 0xCE, 0xFF]) ⟨0, 0, 0, 0, 0, 0, 0xAAAA0000, 0⟩)
    peek o (·.regs.esi) = some 0xAAAAFFFF ∧ peek o fl = some [false, false, true, false, true] := by decide
-- V14
theorem test_orRm32Imm8 :
    peek (step (regs (real [0x66, 0x83, 0xCB, 0x80]) ⟨0, 0, 0, 1, 0, 0, 0, 0⟩)) (·.regs.ebx) = some 0xFFFFFF81 := by decide
-- V16, V24
theorem test_orRm8R8 :
    let o := step (regs (real [0x08, 0xC7]) ⟨0xF0, 0, 0, 0xF00, 0, 0, 0, 0⟩)
    peek o (·.regs.ebx) = some 0xFF00 ∧ peek o (·.regs.eax) = some 0xF0 := by decide
theorem test_orRm8R8_last_offset :
    peek (step (put (regs (real [0x08, 0x07]) ⟨0x80, 0, 0, 0xFFFF, 0, 0, 0, 0⟩) 0xFFFF [1])) (bytesAt · [0xFFFF]) =
      some [0x81] := by decide
-- V17, V29
theorem test_orRm16R16_zero_of_bx_alone :
    let o := step (regs (real [0x09, 0xDB]) ⟨0, 0, 0, 0xFFFF0000, 0, 0, 0, 0⟩)
    peek o (·.regs.ebx) = some 0xFFFF0000 ∧ peek o fl = some [false, false, false, true, true] := by decide
theorem test_orRm16R16_memory :
    peek (step (put (ds (regs (real [0x09, 0x00]) ⟨0xFF, 0, 0, 0x10, 0, 0, 0x20, 0⟩) 0x100) 0x1030 [0, 0xFF]))
      (bytesAt · [0x1030, 0x1031]) = some [0xFF, 0xFF] := by decide
-- V18, V30
theorem test_orRm32R32 :
    peek (step (regs (real [0x66, 0x09, 0xD1]) ⟨0, 0x0F0F0F0F, 0xF0F0F0F0, 0, 0, 0, 0, 0⟩)) (·.regs.ecx) =
      some 0xFFFFFFFF := by decide
theorem test_orRm32R32_memory :
    peek (step (put (regs (prot .s32 0 0 [0x09, 0x44, 0x8A, 0xFC]) ⟨0xF, 0x10, 0x1000, 0, 0, 0, 0, 0⟩) 0x103C [0xF0]))
      (bytesAt · [0x103C, 0x103D]) = some [0xFF, 0] := by decide
-- V19
theorem test_orR8Rm8 :
    let o := step (put (ds (regs (real [0x0A, 0x07]) ⟨0x11, 0, 0, 0x10, 0, 0, 0, 0⟩) 0x3000) 0x30010 [0x22])
    peek o (·.regs.eax) = some 0x33 ∧ peek o (bytesAt · [0x30010]) = some [0x22] := by decide
-- V20 through SS, V28
theorem test_orR16Rm16 :
    let s := put (regs (real [0x0B, 0x46, 0x02]) ⟨1, 0, 0, 0, 0, 0x100, 0, 0⟩) 0x40102 [0, 0x80]
    peek (step { s with segs := { s.segs with ss := rseg 0x4000, ds := rseg 0x1111 } }) (·.regs.eax) = some 0x8001 := by decide
theorem test_orR16Rm16_beyond_limit :
    let s := regs (prot .s16 0 0 [0x0B, 0x07]) ⟨1, 0, 0, 0x2000, 0, 0, 0, 0⟩
    raised (step { s with segs := { s.segs with ds := { flat with limit := 0x2000 } } }) = some (.gp0, 0x100) := by decide
-- V21
theorem test_orR32Rm32 :
    peek (step (put (ds (regs (real [0x66, 0x0B, 0x1E, 0x34, 0x12]) ⟨0, 0, 0, 1, 0, 0, 0, 0⟩) 0x2000) 0x21234 [0, 0, 0, 0x80]))
      (·.regs.ebx) = some 0x80000001 := by decide
-- V22, V26, V27, V31
theorem test_or_real_mode_limit : raised (step (regs (real [0x09, 0x07]) ⟨1, 0, 0, 0xFFFF, 0, 0, 0, 0⟩)) = some (.interrupt13, 0x100) := by
  decide
theorem test_or_into_code_segment :
    raised (step (regs (prot .s16 0 0 [0x2E, 0x09, 0x07]) ⟨1, 0, 0, 0x10, 0, 0, 0, 0⟩)) = some (.gp0, 0x100) := by decide
theorem test_or_stack_limit :
    let s := regs (prot .s16 0 0 [0x36, 0x0B, 0x07]) ⟨1, 0, 0, 0x2000, 0, 0, 0, 0⟩
    raised (step { s with segs := { s.segs with ss := { flat with limit := 0x1FFF } } }) = some (.ss0, 0x100) := by decide
/-- The linear address of a page fault. -/
def pageFaultAt (o : Host.Outcome State Fault Refusal) : Option Dword := (raised o).bind fun x => x.1.cr2
theorem test_or_user_write_to_read_only_page : pageFaultAt (step (paged 3 0x05 [0x08, 0x07])) = some 0x402ABC := by decide
-- V32, and the marks of Part 4
theorem test_or_supervisor_write_ignores_read_only :
    peek (step (paged 0 0x05 [0x08, 0x07])) (bytesAt · [0x25ABC, 0x10004, 0x11008]) = some [0x81, 0x27, 0x65] := by
  decide +kernel
theorem test_or_user_read_of_read_only : peek (step (paged 3 0x05 [0x0A, 0x07])) (bytesAt · [0x10004, 0x11008]) = some [0x27, 0x25] := by
  decide
-- I1
theorem test_or_ignored_prefix_counts : peek (step (real [0x66, 0x0C, 0x01])) (fun t => (t.regs.eax, t.eip)) = some (1, 0x103) := by
  decide

-- O1
theorem test_outImm8Al :
    peek (step (regs (real [0xE6, 0xFF]) ⟨0xAABBCCDD, 0, 0x1234, 0, 0, 0, 0, 0⟩)) (fun t => (t.io, t.eip)) =
      some ([⟨0xFF, .byte, 0xDD⟩], 0x102) := by decide
-- R136
theorem test_outImm8Ax :
    peek (step (regs (real [0xE7, 0x10]) ⟨0xAABBCCDD, 0, 0, 0, 0, 0, 0, 0⟩)) (·.io) = some [⟨0x10, .word, 0xCCDD⟩] := by decide
-- O2
theorem test_outImm8Eax :
    peek (step (regs (real [0x66, 0xE7, 0x10]) ⟨0xAABBCCDD, 0, 0, 0, 0, 0, 0, 0⟩)) (·.io) = some [⟨0x10, .dword, 0xAABBCCDD⟩] := by
  decide
-- O3, O8
theorem test_outDxAl :
    peek (step (regs (real [0xEE]) ⟨0x1FF, 0, 0xFFFFFFFF, 0, 0, 0, 0, 0⟩)) (·.io) = some [⟨0xFFFF, .byte, 0xFF⟩] := by decide
theorem test_outDxAl_denied :
    raised (step (tss (regs (prot .s32 3 0 [0xEE]) ⟨0x41, 0, 0x3F8, 0, 0, 0, 0, 0⟩) 0x7F 0x01)) = some (.gp0, 0x100) := by decide
-- O4, O10
theorem test_outDxAx_past_the_top :
    refusedBy (step (regs (real [0xEF]) ⟨0x1FF, 0, 0xFFFF, 0, 0, 0, 0, 0⟩)) = some .portPastTop := by decide
theorem test_outDxAx_second_bit_denies :
    raised (step (tss (regs (prot .s32 1 0 [0x66, 0xEF]) ⟨0x1234, 0, 0x3F8, 0, 0, 0, 0, 0⟩) 0x7F 0x02)) = some (.gp0, 0x100) := by
  decide
-- O6, O11
theorem test_outDxEax :
    peek (step (regs (real [0x66, 0xEF]) ⟨1, 0, 0xFFFC, 0, 0, 0, 0, 0⟩)) (·.io) = some [⟨0xFFFC, .dword, 1⟩] := by decide
theorem test_outDxEax_fifth_bit_does_not_matter :
    peek (step (tss (regs (prot .s32 2 1 [0xEF]) ⟨0x1234, 0, 0x3F8, 0, 0, 0, 0, 0⟩) 0x7F 0x10)) (·.io) =
      some [⟨0x3F8, .dword, 0x1234⟩] := by decide
-- O7, O13
theorem test_out_bits_not_consulted :
    peek (step (tss (regs (prot .s32 3 3 [0xEE]) ⟨0x41, 0, 0x3F8, 0, 0, 0, 0, 0⟩) 0x7F 0x01)) (·.io) =
      some [⟨0x3F8, .byte, 0x41⟩] := by decide
theorem test_out_virtual_8086_consults :
    raised (step (tss (regs (v86 3 [0xE6, 0x80]) ⟨0x55, 0, 0, 0, 0, 0, 0, 0⟩) 0x10 0x01)) = some (.gp0, 0x100) := by decide

-- S6
theorem test_outsDxRm8_segment :
    let s := put (put (ds (real [0x26, 0x6E]) 0x1000) 0x10010 [0x11]) 0x20010 [0x22]
    peek (step (regs { s with segs := { s.segs with es := rseg 0x2000 } } ⟨0, 0, 0x3F8, 0, 0, 0, 0x10, 0⟩))
      (fun t => (t.io, t.regs.esi, t.eip)) = some ([⟨0x3F8, .byte, 0x22⟩], 0x11, 0x102) := by decide
-- R157, R158 with R152
theorem test_outsDxRm16_segment :
    let s := put (real [0x64, 0x6F]) 0x20010 [0x34, 0x12]
    peek (step (regs { s with segs := { s.segs with fs := rseg 0x2000 } } ⟨0, 0, 0x3F8, 0, 0, 0, 0x10, 0⟩))
      (fun t => (t.io, t.regs.esi)) = some ([⟨0x3F8, .word, 0x1234⟩], 0x12) := by decide
theorem test_outsDxRm32_segment :
    let s := put (real [0x65, 0x66, 0x6F]) 0x20010 [0x78, 0x56, 0x34, 0x12]
    peek (step (regs { s with segs := { s.segs with gs := rseg 0x2000 } } ⟨0, 0, 0x3F8, 0, 0, 0, 0x10, 0⟩))
      (fun t => (t.io, t.regs.esi)) = some ([⟨0x3F8, .dword, 0x12345678⟩], 0x14) := by decide
-- S1, S12
theorem test_outsb_wraps :
    peek (step (put (ds (regs (real [0x6E]) ⟨0, 0, 0x80, 0, 0, 0, 0x1234FFFF, 0⟩) 0x1000) 0x1FFFF [0x7E]))
      (fun t => (t.io, t.regs.esi)) = some ([⟨0x80, .byte, 0x7E⟩], 0x12340000) := by decide
theorem test_outsb_uses_si :
    peek (step (df (put (regs (prot .s32 0 0 [0x67, 0x6E]) ⟨0, 0, 0x1F0, 0, 0, 0, 0xABCD0000, 0⟩) 0 [0x5A])))
      (fun t => (t.io, t.regs.esi)) = some ([⟨0x1F0, .byte, 0x5A⟩], 0xABCDFFFF) := by decide
-- S2, S3
theorem test_outsw_down :
    peek (step (df (put (ds (regs (real [0x6F]) ⟨0, 0, 0x80, 0, 0, 0, 0, 0⟩) 0x1000) 0x10000 [0x34, 0x12])))
      (fun t => (t.io, t.regs.esi)) = some ([⟨0x80, .word, 0x1234⟩], 0xFFFE) := by decide
theorem test_outsw_limit : raised (step (regs (real [0x6F]) ⟨0, 0, 0, 0, 0, 0, 0xFFFF, 0⟩)) = some (.interrupt13, 0x100) := by decide
-- S4, S10
theorem test_outsd :
    peek (step (put (ds (regs (real [0x66, 0x6F]) ⟨0, 0, 0x80, 0, 0, 0, 0xFFFC, 0⟩) 0x1000) 0x1FFFC [0x78, 0x56, 0x34, 0x12]))
      (fun t => (t.io, t.regs.esi)) = some ([⟨0x80, .dword, 0x12345678⟩], 0) := by decide
theorem test_outsd_denied :
    raised (step (tss (regs (prot .s32 3 0 [0x6F]) ⟨0, 0, 0x1F0, 0, 0, 0, 0x2000, 0⟩) 0x3E 0x08)) = some (.gp0, 0x100) := by decide
-- Q1, Q2 step 1
theorem test_repOutsb_zero_count :
    peek (step (regs (real [0xF3, 0x6E]) ⟨0, 0, 0x3F8, 0, 0, 0, 0x10, 0⟩)) (fun t => (t.io, t.regs.esi, t.eip)) =
      some ([], 0x10, 0x102) := by decide
theorem test_repOutsb_first_iteration :
    peek (step (put (ds (regs (real [0xF3, 0x6E]) ⟨0, 0xAAAA0003, 0x3F8, 0, 0, 0, 0x10, 0⟩) 0x1000) 0x10010 [0x41]))
      (fun t => (t.io, t.regs.ecx, t.regs.esi, t.eip)) = some ([⟨0x3F8, .byte, 0x41⟩], 0xAAAA0002, 0x11, 0x100) := by decide
-- Q3, a step whose index wraps
theorem test_repOutsw_wraps :
    peek (step (put (ds (regs (real [0xF3, 0x6F]) ⟨0, 2, 0x1F0, 0, 0, 0, 0xFFFE, 0⟩) 0x1000) 0x1FFFE [3, 4]))
      (fun t => (t.io, t.regs.ecx, t.regs.esi)) = some ([⟨0x1F0, .word, 0x0403⟩], 1, 0) := by decide
-- Q4, Q5 step 2
theorem test_repOutsd_last_iteration :
    peek (step (put (ds (regs (real [0xF3, 0x66, 0x67, 0x6F]) ⟨0, 1, 0x1F0, 0, 0, 0, 0x100, 0⟩) 0x1000) 0x10100 [1, 2, 3, 4]))
      (fun t => (t.io, t.regs.ecx, t.regs.esi, t.eip)) = some ([⟨0x1F0, .dword, 0x04030201⟩], 0, 0x104, 0x104) := by decide
theorem test_repOutsd_limit :
    raised (step (ds (regs (real [0xF3, 0x66, 0x6F]) ⟨0, 2, 0x1F0, 0, 0, 0, 0xFFFD, 0⟩) 0x1000)) = some (.interrupt13, 0x100) := by
  decide

/-! Part 4 of 95_test_vectors.md. -/

theorem test_permission_bits :
    let s := put (put { prot .s32 3 0 [] with tr := ⟨0x28, 0x100000, 0xE8, .tss386⟩ } 0x100066 [0x68]) 0x1000E7 [0xFE, 0xFF]
    s.ioPermission 0x3F8 1 = .ok true s ∧ s.ioPermission 0x3F8 2 = .ok false s ∧ s.ioPermission 0x3FF 1 = .ok false s ∧
      s.ioPermission 0x3FF 2 = .ok false s := by decide
theorem test_permission_needs_second_byte :
    let s := put (put { prot .s32 3 0 [] with tr := ⟨0x28, 0x100000, 0xE7, .tss386⟩ } 0x100066 [0x68]) 0x1000E7 [0xFE, 0xFF]
    s.ioPermission 0x3F8 1 = .ok false s := by decide
theorem test_expand_down :
    let g : Segment := { flat with limit := 0xFFF, expandDown := true }
    g.violates 0xFFF 1 = true ∧ g.violates 0x1000 2 = false ∧ g.violates 0xFFFF 1 = false ∧ g.violates 0xFFFF 2 = true := by decide

/-! Witnesses: states and operands that meet the hypotheses of the statements, at the edges of their ranges. -/

/-- An outcome is a next state. -/
def completes (o : Host.Outcome State Fault Refusal) : Bool := (peek o fun _ => ()).isSome

/-- [BX]. -/
def atBx : Addr := .based16 .bx .none

theorem test_witness_DecodeInvertsEncode :
    (Instr.orRm16Imm16 p0 (.mem (.based16 .bp (.d8 0x80))) 0xFFFF).wf .s16 = true ∧ (Instr.outDxEax p66).wf .s16 = true ∧
    (Instr.outsDxRm32 ⟨true, true, some .gs⟩).wf .s16 = true ∧ (Instr.outsb p67).wf .s32 = true ∧
    (Instr.repOutsw p66).wf .s32 = true ∧
    (Instr.orR32Rm32 p67 .edi (.mem (.sibNoBase (.scaled .edi 3) 0xFFFFFFFF))).wf .s16 = false ∧
    (Instr.orR32Rm32 ⟨true, true, none⟩ .edi (.mem (.sibNoBase (.scaled .edi 3) 0xFFFFFFFF))).wf .s16 = true := by decide

/-- The longest instruction of all: three prefixes, SIB, disp32, imm32: 14 bytes. -/
theorem test_witness_DecodedInstructionHasItsLength :
    decode .s16 [0x66, 0x67, 0x26, 0x81, 0x8C, 0x98, 1, 2, 3, 4, 5, 6, 7, 8, 9] =
      .done (.orRm32Imm32 ⟨true, true, some .es⟩ (.mem (.sib .eax (.scaled .ebx 2) (.d32 0x04030201))) 0x08070605) [9] ∧
    Instr.len (.orRm32Imm32 ⟨true, true, some .es⟩ (.mem (.sib .eax (.scaled .ebx 2) (.d32 0x04030201))) 0x08070605) = 14 := by
  decide

theorem test_witness_PrefixOrderDoesNotMatter :
    ([0x66, 0x67, 0xF3] : List Byte).Perm [0xF3, 0x67, 0x66] ∧ (∀ b ∈ ([0x66, 0x67, 0xF3] : List Byte), prefixByteOf b ≠ none) ∧
    decode .s16 ([0x66, 0x67, 0xF3] ++ [0x6F]) = .done (.repOutsd ⟨true, true, none⟩) [] := by decide

theorem test_witness_RefusedEncodingsNeverDecode :
    (∀ x ∈ ([0x26, 0x66] : List Byte), prefixByteOf x ≠ none) ∧ prefixByteOf 0x83 = none ∧
    decode .s16 ([0x26, 0x66] ++ 0x83 :: [0x0F, 0xFF]) = .done (.orRm32Imm8 ⟨true, false, some .es⟩ (.mem atBx) 0xFF) [] ∧
    prefixByteOf 0x90 = none ∧ opcodeOf 0x90 = none := by decide

/-- Vector X9: ModR/M 04h calls for a SIB byte; 60h has index 100b and scale 01b, 20h the same index and scale 00b. -/
theorem test_witness_RefusedEncodingsNeverDecode_sib :
    ((Size.s16 = .s32) ↔ (0x67 : Byte) ∉ ([0x67] : List Byte)) ∧ ((Size.s32 = .s32) ↔ (0x67 : Byte) ∉ ([] : List Byte)) ∧
    (0x04 : Byte).extractLsb' 6 2 ≠ (3 : BitVec 2) ∧ (0x04 : Byte).extractLsb' 0 3 = (4 : BitVec 3) ∧
    (0x60 : Byte).extractLsb' 3 3 = (4 : BitVec 3) ∧ (0x60 : Byte).extractLsb' 6 2 ≠ (0 : BitVec 2) ∧
    decode .s16 [0x67, 0x08, 0x04, 0x60] = .bad .sibIndexScale ∧
    decode .s16 [0x67, 0x08, 0x04, 0x20] = .done (.orRm8R8 p67 (.mem (.sib .eax .none .none)) .eax) [] := by decide

theorem test_witness_StepRunsDecodedInstruction :
    (real [0x0C, 0x80]).launchRefusal = none ∧ (real [0x0C, 0x80]).fetchBytes 0 2 = .ok [0x0C, 0x80] (real [0x0C, 0x80]) ∧
    decode (real [0x0C, 0x80]).defaultSize [0x0C, 0x80] = .done (.orAlImm8 p0 0x80) [] := by decide

theorem test_witness_StepKeepsMemoryCanonical :
    Memory.wf (real [0x08, 0x07]).mem = true ∧ completes (step (real [0x08, 0x07])) = true ∧
    Memory.wf (paged 0 0x05 [0x0A, 0x07]).mem = true ∧ completes (step (paged 0 0x05 [0x0A, 0x07])) = true := by decide

theorem test_witness_StepKeepsModeAndControl :
    (prot .s32 3 3 [0xEE]).launch.deliver = .terminal ∧ completes (step (prot .s32 3 3 [0xEE])) = true := by decide

theorem test_witness_IoHistoryOnlyGrows : completes (step (real [0xE6, 0xFF])) = true ∧ completes (step (real [0x0C, 0x00])) = true := by
  decide

theorem test_witness_EipMovesByTheLength :
    (real []).launch.deliver = .terminal ∧ completes (exec (.outImm8Al p0 0) (real [])) = true ∧
    peek (exec (.repOutsb p0) (regs (real []) ⟨0, 2, 0, 0, 0, 0, 0, 0⟩)) (fun t => (t.eip, t.repCount p0)) = some (0x100, 1) := by
  decide

theorem test_witness_ModeFromPeAndVm :
    (real []).cr0.getLsbD 0 = false ∧ ((prot .s32 0 0 []).cr0.getLsbD 0 = true ∧ (prot .s32 0 0 []).eflags.VM = false) ∧
    ((v86 0 []).cr0.getLsbD 0 = true ∧ (v86 0 []).eflags.VM = true) := by decide

theorem test_witness_IllegalLaunchStatesRefused :
    let v := { real [] with eflags := { State.reset.eflags with VM := true } }
    let tf := { real [] with eflags := { State.reset.eflags with TF := true } }
    let dr := { real [] with debugRegs := { State.reset.debugRegs with dr7 := 0x80 } }
    (v.pe = false ∧ v.eflags.VM = true) ∧ (tf.eflags.VM = false ∧ tf.eflags.TF = true) ∧
      (dr.eflags.VM = false ∧ dr.eflags.TF = false ∧ dr.debugRegs.dr7.extractLsb' 0 8 ≠ (0 : BitVec 8)) := by decide

/-- For the three statements of OR on registers: the last EIP at which the form still advances, and one where it does not. -/
theorem test_witness_OrOnRegisters :
    { real [] with eip := 0xFFFFFFFD }.canAdvance 2 ∧ ¬ { real [] with eip := 0xFFFFFFFE }.canAdvance 2 ∧
    completes (exec (.orAlImm8 p0 1) { real [] with eip := 0xFFFFFFFD }) = true ∧
    completes (exec (.orRm16Imm8 p0 (.reg .edi) 1) (real [])) = true ∧
    completes (exec (.orR32Rm32 p0 .esp (.reg .esp)) (real [])) = true := by decide

theorem test_witness_OrOnMemory_real :
    let s := regs (real []) ⟨0, 0, 0, 0xFFFE, 0, 0, 0, 0⟩
    s.openOperand (p0.segFor atBx.defaultSeg) (s.offsetOf atBx) .word .write = .ok [0xFFFE, 0xFFFF] s ∧
    s.storeRefusal 4 [0xFFFE, 0xFFFF] = none ∧ s.canAdvance 4 := by decide

/-- With paging: opening the operand sets A and D bits. -/
theorem test_witness_OrOnMemory_paged :
    let s := paged 0 0x05 []
    s.openOperand (p0.segFor atBx.defaultSeg) (s.offsetOf atBx) .byte .write =
      .ok [0x25ABC] ((s.markPhys 0x10004 0x20).markPhys 0x11008 0x60) ∧
    ((s.markPhys 0x10004 0x20).markPhys 0x11008 0x60).storeRefusal 2 [0x25ABC] = none ∧ s.canAdvance 2 := by decide +kernel

theorem test_witness_OrMemoryToRegisterCompletes :
    let s := put (regs (real []) ⟨0, 0, 0, 0xFFFE, 0, 0, 0, 0⟩) 0xFFFE [0x34, 0x12]
    s.memRead (p0.segFor atBx.defaultSeg) (s.offsetOf atBx) .word = .ok (0x1234 : Half) s ∧ s.canAdvance 2 := by decide

/-- The three stores the spec refuses: a program byte ahead, a page table, the TSS. -/
theorem test_witness_OrRefusedStoresStop :
    let s := { regs (real []) ⟨0, 0, 0, 0x102, 0, 0, 0, 0⟩ with launch := ⟨some ⟨0x100, 0x103⟩, .v13, .terminal⟩ }
    let u := tss (regs (prot .s16 0 0 []) ⟨0, 0, 0, 0x68, 0, 0, 0, 0⟩) 0 0
    let v := { u with segs := { u.segs with ds := { flat with base := 0x200000 } } }
    s.openOperand .ds (s.offsetOf atBx) .byte .write = .ok [0x102] s ∧ s.storeRefusal 2 [0x102] = some .storeIntoProgram ∧
    v.openOperand .ds (v.offsetOf atBx) .byte .write = .ok [0x200068] v ∧ v.storeRefusal 2 [0x200068] = some .storeIntoTss := by
  decide
theorem test_witness_OrRefusedStoresStop_page_table :
    let s := { paged 0 0x07 [] with segs := (prot .s16 0 0 []).segs }
    let t := put s 0x12040 [0x07, 0x10, 0x01]
    let u := regs t ⟨0, 0, 0, 0, 0, 0, 0, 0⟩
    (u.markPhys 0x10000 0x20).storeRefusal 2 [0x11008] = some .storeIntoPageTable ∧
    u.openOperand .ds 0x10008 .byte .write = .ok [0x11008] ((u.markPhys 0x10000 0x20).markPhys 0x12040 0x60) := by
  decide +kernel

/-- A byte just behind the storing instruction is refused, the instruction's own last byte is not. -/
theorem test_witness_StoreRefusedExactlyAhead :
    let s := { real [] with launch := ⟨some ⟨0x100, 0x103⟩, .v13, .terminal⟩ }
    s.paging = false ∧ s.storeRefusal 2 [0x102] = some .storeIntoProgram ∧ s.storeRefusal 2 [0x101] = none ∧
      s.storeRefusal 2 [0x103] = none ∧ (real []).launch.program = none ∧ (real []).pe = false := by decide

/-- The last byte of the TSS, the first byte behind it, and no TSS loaded. -/
theorem test_witness_StoreRefusedExactlyAhead_tss :
    let s := tss (prot .s16 0 0 []) 0 0
    let u := { s with tr := { s.tr with selector := 0 } }
    s.storeRefusal 2 [0x202100] = some .storeIntoTss ∧ s.storeRefusal 2 [0x202101] = none ∧ u.storeRefusal 2 [0x202100] = none := by
  decide

/-- The state with its program at 0100h to `stop`. -/
def prog (s : State) (stop : Dword) (d : Deliver) : State := { s with launch := ⟨some ⟨0x100, stop⟩, .v13, d⟩ }

theorem test_witness_OrMemoryRealModeCompletes :
    let s := regs (real []) ⟨0x80, 0, 0, 0xFFFF, 0, 0, 0, 0⟩
    s.pe = false ∧ s.canAdvance 2 ∧ (s.offsetOf atBx).toNat + 1 ≤ 65536 ∧
    completes (exec (.orRm8R8 p0 (.mem atBx) .eax) s) = true ∧ completes (exec (.orR8Rm8 p0 .eax (.mem atBx)) s) = true := by decide

/-- With no program range nothing is ahead. -/
theorem test_witness_OrMemoryRealModeCompletes_noProgram :
    ¬ (real []).HitsProgramAhead 2 [0xFFFF] := by
  rintro ⟨_, _, _, h, _⟩
  exact absurd (show none = some _ from h) (by simp)

/-- With a program range: the last byte of the storing instruction, 0101h, is not ahead; the byte 0103h behind one of length 3 is. -/
theorem test_witness_OrMemoryRealModeCompletes_program :
    let s := prog (regs (real []) ⟨0x80, 0, 0, 0x101, 0, 0, 0, 0⟩) 0x103 .terminal
    ¬ s.HitsProgramAhead 2 [0x101] ∧ completes (exec (.orRm8R8 p0 (.mem atBx) .eax) s) = true ∧
    refusedBy (exec (.orRm8R8 p0 (.mem (.based16 .bx (.d8 2))) .eax) (prog s 0x104 .terminal)) = some .storeIntoProgram := by
  refine ⟨?_, by decide, by decide⟩
  rintro ⟨pa, hpa, pr, hpr, o, h1, _, h3, h4⟩
  obtain rfl : pa = 0x101 := by simpa using hpa
  obtain rfl : (⟨0x100, 0x103⟩ : ProgramRange) = pr := by simpa [prog] using hpr
  have e1 : 0x102 ≤ o := h1
  have e2 : o < 0x103 := h3
  obtain rfl : o = 0x102 := by omega
  rw [State.IsImage, if_neg (by decide)] at h4
  exact absurd h4 (by decide)

theorem test_witness_OrWithItselfTests : (real []).canAdvance (p0.len + 2) := by decide

/-- Both sides of the sign of imm8. -/
theorem test_witness_SignExtendedImmediateFillsHighBits :
    (real []).canAdvance (p0.len + 3) ∧ 0x80 ≤ (0x80 : Byte).toNat ∧ (0x7F : Byte).toNat < 0x80 := by decide

theorem test_witness_EipPastTopRefused :
    2 ^ 32 ≤ { real [] with eip := 0xFFFFFFFE }.eip.toNat + (p0.len + 2) ∧
    refusedBy (exec (.orAlImm8 p0 1) { real [] with eip := 0xFFFFFFFE }) = some .eipPastTop := by decide

/-- Each clause at the first EIP that is refused: a memory destination, a memory source, OUT, OUTS, and REP at counts 0 and 1. -/
theorem test_witness_EipPastTopRefused_operands :
    let s := regs { real [] with eip := 0xFFFFFFFE } ⟨0, 1, 0xFFFF, 0, 0, 0, 0, 0⟩
    let u := { s with eip := 0xFFFFFFFF }
    s.openOperand .ds (s.offsetOf atBx) .byte .write = .ok [0] s ∧ s.storeRefusal 2 [0] = none ∧
    s.pastTop (Instr.len (.orRm8R8 p0 (.mem atBx) .eax)) ∧
    s.memRead .ds (s.offsetOf atBx) .byte = .ok (0 : Byte) s ∧ s.ioCheck 0xFF 4 = .ok () s ∧
    u.ioCheck u.portDx 1 = .ok () u ∧ u.memRead .ds (u.sourceIndex p0) .byte = .ok (0 : Byte) u ∧ u.portDx.toNat + 1 ≤ 65536 ∧
    u.pastTop (Instr.len (.outsb p0)) ∧ u.repCount p0 = 1 ∧ s.pastTop (Instr.len (.repOutsb p0)) ∧
    (regs s ⟨0, 0, 0, 0, 0, 0, 0, 0⟩).repCount p0 = 0 ∧ refusedBy (exec (.repOutsb p0) s) = some .eipPastTop := by decide

theorem test_witness_EffectiveAddresses :
    (Addr.based16 .bx (.d16 0x8000)).size = .s16 ∧ (Addr.sib .eax (.scaled .ebx 2) (.d32 0x80000000)).size = .s32 := by decide

/-- The last offset inside and the first outside, in both modes, and through SS with `real_ss_vector` 12. -/
theorem test_witness_RealModeOffsetBound :
    let s12 := { real [] with launch := ⟨none, .v12, .terminal⟩ }
    (real []).mode ≠ .prot ∧ (v86 0 []).mode ≠ .prot ∧
    (real []).segCheck .ds 0xFFFF 1 .read = .ok 0xFFFF ∧ (real []).segCheck .ss 0xFFFF 2 .write = .error .interrupt13 ∧
    (v86 0 []).segCheck .ss 0xFFFD 4 .write = .error .gp0 ∧ s12.segCheck .ss 0xFFFD 4 .write = .error .interrupt12 := by decide

/-- Expand-up and expand-down at their limits, a segment that is not writable, a null selector. -/
theorem test_witness_ProtectedSegmentCheck :
    let s := prot .s32 0 0 []
    let d := { s with segs := { s.segs with ds := { flat with limit := 0xFFF, expandDown := true } } }
    let n := { s with segs := { s.segs with ds := { flat with valid := false } } }
    s.mode = .prot ∧ s.segCheck .ds 0xFFFFFFFC 4 .write = .ok 0xFFFFFFFC ∧ s.segCheck .ds 0xFFFFFFFD 4 .write = .error .gp0 ∧
    s.segCheck .cs 0 1 .write = .error .gp0 ∧ d.segCheck .ds 0x1000 2 .read = .ok 0x1000 ∧
    d.segCheck .ds 0xFFF 1 .read = .error .gp0 ∧ d.segCheck .ds 0xFFFF 2 .read = .error .gp0 ∧
    n.segCheck .ds 0 1 .read = .error .gp0 := by decide

/-- Through SS: a null selector, an unreadable segment, and beyond the limit. -/
theorem test_witness_ProtectedSegmentCheck_ss :
    let s := prot .s32 0 0 []
    let n := { s with segs := { s.segs with ss := { flat with valid := false } } }
    let x := { s with segs := { s.segs with ss := { flat with readable := false } } }
    let l := { s with segs := { s.segs with ss := { flat with limit := 0xFFF } } }
    n.segCheck .ss 0 1 .read = .error .gp0 ∧ x.segCheck .ss 0 1 .read = .error .gp0 ∧
    l.segCheck .ss 0xFFF 1 .read = .ok 0xFFF ∧ l.segCheck .ss 0xFFF 2 .read = .error .ss0 := by decide

/-- Off, not present, denied, mapped. -/
theorem test_witness_PageTranslateWalks :
    (real []).paging = false ∧ (paged 3 0x04 []).paging = true ∧ ¬ ((paged 3 0x04 []).pteOf 0x402ABC).getLsbD 0 = true ∧
    ((paged 3 0x05 []).pdeOf 0x402ABC).getLsbD 0 = true ∧ ((paged 3 0x05 []).pteOf 0x402ABC).getLsbD 0 = true ∧
    ((paged 3 0x05 []).pteOf 0x402ABC).getLsbD 1 = false ∧ ((paged 3 0x05 []).pteOf 0x402ABC).getLsbD 2 = true ∧
    (paged 3 0x05 []).mappedTo 0x402ABC = 0x25ABC := by decide

theorem test_witness_OpeningOperandOnlyMarks :
    (real []).openOperand .ds 0xFFFC .dword .read = .ok [0xFFFC, 0xFFFD, 0xFFFE, 0xFFFF] (real []) ∧
    (paged 3 0x05 []).openOperand .ds 0xABC .byte .read =
      .ok [0x25ABC] (((paged 3 0x05 []).markPhys 0x10004 0x20).markPhys 0x11008 0x20) := by decide

theorem test_witness_MappedOperandOpens :
    (paged 3 0x05 []).paging = true ∧ (paged 3 0x05 []).segCheck .ds 0xABC 1 .read = .ok 0x402ABC ∧
    addrRange 0x402ABC 1 = [0x402ABC] ∧
    ((paged 3 0x05 []).pdeOf 0x402ABC).getLsbD 0 = true ∧ ((paged 3 0x05 []).pteOf 0x402ABC).getLsbD 0 = true ∧
    ((paged 3 0x05 []).pdeOf 0x402ABC).getLsbD 2 = true ∧ ((paged 3 0x05 []).pteOf 0x402ABC).getLsbD 2 = true ∧
    (paged 3 0x05 []).user = true := by decide

/-- Permission given by the bits; the last dword port. -/
theorem test_witness_OutWritesItsPort :
    let s := tss (regs (prot .s32 3 0 []) ⟨1, 0, 0xFFFC, 0, 0, 0, 0, 0⟩) 0x1FFF 0
    s.ioConsults = true ∧ s.ioCheck 0x80 4 = .ok () s ∧ (real []).ioCheck 0xFFFC 4 = .ok () (real []) ∧
    (0xFFFC : Half).toNat + 4 ≤ 65536 ∧ s.canAdvance 2 := by decide

theorem test_witness_OutUncheckedCompletes :
    (real []).pe = false ∧ ((prot .s32 2 2 []).eflags.VM = false ∧ (prot .s32 2 2 []).cpl.toNat ≤ (prot .s32 2 2 []).eflags.IOPL.toNat) ∧
    (0xFFFF : Half).toNat + 1 ≤ 65536 ∧ (real []).canAdvance 2 := by decide

/-- One level either side of IOPL, and virtual 8086 mode at IOPL 3. -/
theorem test_witness_PermissionConsultedExactlyWhen :
    (prot .s32 2 2 []).ioConsults = false ∧ (prot .s32 3 2 []).ioConsults = true ∧ (v86 3 []).ioConsults = true ∧
    (real []).ioConsults = false := by decide

theorem test_witness_OutUncheckedIgnoresTaskRegister :
    (prot .s32 1 1 []).ioConsults = false ∧ completes (exec (.outDxEax p0) (prot .s32 1 1 [])) = true := by decide

theorem test_witness_DeniedPortRaisesGeneralProtection :
    let s := tss (regs (prot .s32 3 0 []) ⟨0, 1, 0x3F8, 0, 0, 0, 0, 0⟩) 0x7F 0x09
    s.launch.deliver = .terminal ∧ s.ioConsults = true ∧ s.ioPermission s.portDx 1 = .ok false s ∧
    s.ioPermission s.portDx 2 = .ok false s ∧ s.ioPermission s.portDx 4 = .ok false s ∧ s.repCount p0 ≠ 0 := by decide

/-- A 286 TSS; a bitmap one byte short; one that just reaches. -/
theorem test_witness_PermissionTestsEveryPortBit :
    let s := tss (prot .s32 3 0 []) 0x7F 0x01
    let old := { s with tr := { s.tr with type := .tss286 } }
    let short := { s with tr := { s.tr with limit := 0xE7 } }
    let just := { s with tr := { s.tr with limit := 0xE8 } }
    s.paging = false ∧ old.tr.type = .tss286 ∧ short.tr.limit.toNat < short.ioBase + 0x3F8 / 8 + 1 ∧
    just.ioBase + 0x3F8 / 8 + 1 ≤ just.tr.limit.toNat ∧ just.ioPermission 0x3F9 1 = .ok true just := by decide

theorem test_witness_PortPastTopRefused :
    let s := regs (real []) ⟨0, 0, 0xFFFF, 0, 0, 0, 0, 0⟩
    let u := regs (real []) ⟨0, 0, 0xFFFD, 0, 0, 0, 0, 0⟩
    s.ioCheck s.portDx 2 = .ok () s ∧ 65536 < s.portDx.toNat + 2 ∧ u.ioCheck u.portDx 4 = .ok () u ∧
      65536 < u.portDx.toNat + 4 ∧
    s.memRead .ds (s.sourceIndex p0) .word = .ok (0 : Half) s ∧ u.memRead .ds (u.sourceIndex p0) .dword = .ok (0 : Dword) u ∧
    (regs (real []) ⟨0, 1, 0xFFFD, 0, 0, 0, 0, 0⟩).repCount p0 ≠ 0 ∧
    refusedBy (exec (.repOutsd p0) (regs (real []) ⟨0, 1, 0xFFFD, 0, 0, 0, 0, 0⟩)) = some .portPastTop := by decide

/-- Permission from the bits and from the mode; the last word of a segment. -/
theorem test_witness_OutsTransfersOneItem :
    let s := tss (put (regs (prot .s32 3 0 []) ⟨0, 0, 0x1F0, 0, 0, 0, 0x2000, 0⟩) 0x2000 [0xEF, 0xBE]) 0x3E 0
    let r := regs (real []) ⟨0, 0, 0xFFFE, 0, 0, 0, 0xFFFE, 0⟩
    s.ioCheck s.portDx 2 = .ok () s ∧ s.memRead (p0.segFor .ds) (s.sourceIndex p0) .word = .ok (0xBEEF : Half) s ∧
    s.portDx.toNat + 2 ≤ 65536 ∧ s.canAdvance 1 ∧
    r.ioCheck r.portDx 2 = .ok () r ∧ r.memRead (p0.segFor .ds) (r.sourceIndex p0) .word = .ok (0 : Half) r ∧
    r.portDx.toNat + 2 ≤ 65536 := by decide

theorem test_witness_OutsRealModeCompletes :
    let r := regs (real []) ⟨0, 0, 0xFFFE, 0, 0, 0, 0xFFFE, 0⟩
    r.pe = false ∧ r.portDx.toNat + 2 ≤ 65536 ∧ r.canAdvance 1 ∧ (r.sourceIndex p0).toNat + 2 ≤ 65536 ∧
    completes (exec (.outsw p0) r) = true := by decide

theorem test_witness_SourceIndexMoves : (real []).addressSize p0 = .s16 ∧ (real []).addressSize p67 = .s32 := by decide

/-- Counts 0, 1 and above: at CX with garbage above it. -/
theorem test_witness_RepOutsOneIteration :
    let z := regs (real []) ⟨0, 0xAAAA0000, 0, 0, 0, 0, 0, 0⟩
    let one := regs (real []) ⟨0, 0xAAAA0001, 0, 0, 0, 0, 0, 0⟩
    z.repCount p0 = 0 ∧ z.canAdvance 2 ∧ one.repCount p0 = 1 ∧ one.ioCheck one.portDx 1 = .ok () one ∧
    one.memRead (p0.segFor .ds) (one.sourceIndex p0) .byte = .ok (0 : Byte) one ∧ one.portDx.toNat + 1 ≤ 65536 ∧
    peek (exec (.repOutsb p0) one) (fun t => (t.eip, t.regs.ecx)) = some (0x102, 0xAAAA0000) := by decide

/-- Three words up to the end of the segment and over it to its start. -/
theorem test_witness_RepOutsRunsToCompletion :
    let s := regs (real []) ⟨0, 3, 0x1F0, 0, 0, 0, 0xFFFC, 0⟩
    s.pe = false ∧ s.repCount p0 = 3 ∧ s.portDx.toNat + 2 ≤ 65536 ∧ s.canAdvance (p0.len + 2) ∧
    (∀ j < 3, (s.itemOffset .word p0 j).toNat + 2 ≤ 65536) ∧
    (List.range 3).map (s.itemOffset .word p0) = [0xFFFC, 0xFFFE, 0] := by decide

/-- A limit violation, and a page fault of a write to a read-only page. -/
theorem test_witness_ExceptionLeavesState :
    let r := regs (real []) ⟨0, 0, 0, 0xFFFF, 0, 0, 0, 0⟩
    raised (exec (.orRm16R16 p0 (.mem atBx) .eax) r) = some (.interrupt13, 0x100) ∧
    pageFaultAt (exec (.orRm8R8 p0 (.mem atBx) .eax) (paged 3 0x05 [])) = some 0x402ABC := by decide

/-- Each mode, and a page fault. -/
theorem test_witness_ExceptionsByMode :
    let r := regs (real []) ⟨0, 0, 0, 0xFFFF, 0, 0, 0, 0⟩
    let v := regs (v86 0 []) ⟨0, 0, 0, 0xFFFF, 0, 0, 0, 0⟩
    let n := { prot .s16 0 0 [] with segs := { (prot .s16 0 0 []).segs with ds := { flat with valid := false } } }
    r.mode = .real ∧ raised (exec (.orRm16R16 p0 (.mem atBx) .eax) r) = some (.interrupt13, 0x100) ∧
    v.mode = .v86 ∧ raised (exec (.orRm16R16 p0 (.mem atBx) .eax) v) = some (.gp0, 0x100) ∧
    n.mode = .prot ∧ raised (exec (.orRm16R16 p0 (.mem atBx) .eax) n) = some (.gp0, 0x100) ∧
    pageFaultAt (exec (.orRm8R8 p0 (.mem atBx) .eax) (paged 3 0x05 [])) = some 0x402ABC := by decide

theorem test_witness_ExceptionEndsTheRun :
    let s := { real [] with eip := 0xFFFF0 }
    s.launch.deliver = .terminal ∧ s.launchRefusal = none ∧ s.fetch = .raised .interrupt13 := by decide

theorem test_witness_FetchBeyondLimitFaults :
    let s := { real [] with eip := 0x10000 }
    s.launch.deliver = .terminal ∧ s.launchRefusal = none ∧ s.mode = .real ∧ 0xFFFF < s.eip.toNat := by decide

/-- The answer of a step at an instruction whose second byte is the first beyond the limit of CS: the opcode byte is fetched, the next
byte raises. -/
def secondByteBeyond (s : State) : Option (Parsed Instr) × Option (Exc × Dword) :=
  (match s.fetchBytes 0 1 with
    | .ok bs s1 => if s1 = s then some (decode s.defaultSize bs) else none
    | .raised _ => none
    | .refused _ => none, raised (step s))

/-- 0Ch at the last offset inside the limit, in each mode; in real-address mode 0Ch, imm8 up to the last offset runs. -/
theorem test_witness_FetchBeyondLimitFaults_secondByte :
    let r := put { real [] with eip := 0xFFFF } 0xFFFF [0x0C]
    let v := put { v86 0 [] with eip := 0xFFFF } 0xFFFF [0x0C]
    let q := prot .s32 0 0 [0x0C]
    let p := { q with segs := { q.segs with cs := { q.segs.cs with limit := 0x100 } } }
    r.launchRefusal = none ∧ r.readPhys (r.segs.cs.base + (r.eip + 0)) = 0x0C ∧ secondByteBeyond r = (some .more, some (.interrupt13, 0xFFFF)) ∧
    v.mode = .v86 ∧ v.launchRefusal = none ∧ secondByteBeyond v = (some .more, some (.gp0, 0xFFFF)) ∧
    p.mode = .prot ∧ p.launchRefusal = none ∧ p.segs.cs.expandDown = false ∧ secondByteBeyond p = (some .more, some (.gp0, 0x100)) ∧
    completes (step (put { real [] with eip := 0xFFFE } 0xFFFE [0x0C, 0x01])) = true := by decide

/-- A later byte in a page that is not present: the opcode byte's fetch set an A bit, which the state of the #PF does not show. -/
theorem test_witness_FetchBeyondLimitFaults_page :
    let s := put { paged 3 0x05 [] with eip := 0xFFF } 0xFFF [0x0C]
    s.launch.deliver = .terminal ∧ s.launchRefusal = none ∧ pageFaultAt (step s) = some 0x1000 ∧
    (match s.fetchBytes 0 1 with
      | .ok bs s1 => decide (bs = [0x0C] ∧ s1.mem ≠ s.mem)
      | .raised _ => false
      | .refused _ => false) = true ∧
    (match step s with
      | .fault (.exception _ t) => decide (t.mem = s.mem)
      | _ => false) = true := by decide +kernel

/-- The first byte beyond the limit in the other two modes, and a CS that is not valid. -/
theorem test_witness_FetchBeyondLimitFaults_otherModes :
    let v := { v86 0 [] with eip := 0x10000 }
    let q := prot .s32 0 0 []
    let p := { q with segs := { q.segs with cs := { q.segs.cs with limit := 0xFF } } }
    let u := { q with segs := { q.segs with cs := { q.segs.cs with valid := false } } }
    v.launch.deliver = .terminal ∧ raised (step v) = some (.gp0, 0x10000) ∧ p.launch.deliver = .terminal ∧
    raised (step p) = some (.gp0, 0x100) ∧ raised (step u) = some (.gp0, 0x100) := by decide

theorem test_witness_RealModeDeliveryEntersHandler :
    let s := { put (regs (real []) ⟨0, 0, 0, 0, 0xFFFF0006, 0, 0, 0⟩) 0x34 [0x34, 0x12, 0x00, 0xF0] with
      launch := ⟨none, .v13, .vectorTable⟩ }
    s.launch.deliver = .vectorTable ∧ s.mode = .real ∧ (s.getReg .word .esp).toNat ∉ [1, 3, 5] ∧
    peek (s.takeException .interrupt13) (fun t => (t.eip, t.segs.cs.selector, t.regs.esp, bytesAt t [0, 1, 2, 3, 4, 5])) =
      some (0x1234, 0xF000, 0xFFFF0000, [0x00, 0x01, 0x00, 0x00, 0x02, 0x00]) ∧
    peek (s.takeException .interrupt13) State.delivered = some [.interrupt13] := by decide

/-- Real mode with SP as given and delivery to the vector table. -/
def deliverAt (sp : Dword) : State :=
  { regs (real []) ⟨0, 0, 0, 0, sp, 0, 0, 0⟩ with launch := ⟨none, .v13, .vectorTable⟩ }

/-- SP wraps below 2; at 5 the third push is at offset FFFFh. -/
theorem test_witness_RealModeDeliveryEntersHandler_wrap :
    peek ((deliverAt 0).takeException .interrupt13) (fun t => t.regs.esp) = some 0xFFFA ∧
    ((deliverAt 5).getReg .word .esp).toNat ∈ [1, 3, 5] ∧
    failedDelivery ((deliverAt 5).takeException .interrupt13) = some (.interrupt13, .interrupt13) := by decide

/-- A destination and a source beyond the limit; a denied port; an item beyond the limit once the port is permitted. -/
theorem test_witness_OperandExceptionsTrap :
    let r := regs (real []) ⟨0, 1, 0, 0xFFFF, 0, 0, 0xFFFF, 0⟩
    let d := tss (regs (prot .s32 3 0 []) ⟨0, 1, 0x3F8, 0, 0, 0, 0, 0⟩) 0x7F 0x01
    r.launch.deliver = .terminal ∧ r.openOperand .ds (r.offsetOf atBx) .word .write = .raised .interrupt13 ∧
    r.openOperand .ds (r.offsetOf atBx) .dword .read = .raised .interrupt13 ∧
    d.launch.deliver = .terminal ∧ d.ioCheck 0x3F8 1 = .raised .gp0 ∧ d.ioCheck d.portDx 1 = .raised .gp0 ∧
    r.ioCheck r.portDx 2 = .ok () r ∧ r.memRead .ds (r.sourceIndex p0) .word = .raised .interrupt13 ∧ r.repCount p0 ≠ 0 ∧
    raised (exec (.repOutsw p0) r) = some (.interrupt13, 0x100) ∧ raised (exec (.orR16Rm16 p0 .eax (.mem atBx)) r) =
      some (.interrupt13, 0x100) := by decide

/-- One instruction to the end; a launch at the end; an end inside the instruction; a delivery whose handler is the end. -/
theorem test_witness_FinalStateOnlyAtProgramEnd :
    let s := prog (real [0x0C, 0x01]) 0x102 .terminal
    let w := prog (regs (put (real [0x09, 0x07]) 0x34 [0x02, 0x01]) ⟨0, 0, 0, 0xFFFF, 0x2000, 0, 0, 0⟩) 0x102 .vectorTable
    (finalState 1 s).map (fun t => (t.regs.eax, t.eip)) = some (1, 0x102) ∧ finalState 0 s = none ∧
    finalState 1 { s with eip := 0x102 } = none ∧ { s with eip := (0x102 : Dword) }.runOver = true ∧
    finalState 2 (prog (real [0x0C, 0x01]) 0x101 .terminal) = none ∧
    peek (step w) (fun t => (t.eip, t.delivered)) = some (0x102, [.interrupt13]) ∧ finalState 1 w = none := by decide

/-- The last clause's premises: EIP inside the program, a step with no delivery to the end; the clause before it, one step short. -/
theorem test_witness_FinalStateOnlyAtProgramEnd_last :
    let s := prog (real [0x0C, 0x01, 0x0C, 0x02]) 0x102 .terminal
    let u := prog s 0x104 .terminal
    s.inProgram = true ∧ peek (step s) (fun t => (t.delivered, t.runOver)) = some (s.delivered, true) ∧
    u.inProgram = true ∧ peek (step u) (fun t => (t.delivered, t.runOver)) = some (u.delivered, false) ∧
    (finalState 2 u).map (fun t => (t.regs.eax, t.eip)) = some (3, 0x104) := by decide

/-- The host's probe: the first table word stored at the reset address runs from reset. -/
theorem test_withFetchWord :
    decodeTableWord 16 0x800F = some (.orRm8Imm8 p0 (.mem atBx) 0) ∧
    completes (step (State.reset.withFetchWord 16 0x800F)) = true := by decide

end Sys2Proof.Tests
end

