-- ==== Sys2Proof/Proofs/Scope.lean ====
section
/-! PROOFS. What completing does to EIP, shape by shape (R15, R164), and how fetching byte by byte meets the decoder (R54, R72). -/

namespace Sys2Proof.Machine

variable {α β : Type} {s t u : State} {len : Nat}

/-! Fields that setting A and D bits keeps. -/

theorem OnlyMarks.eip (h : OnlyMarks s t) : t.eip = s.eip := by rw [h.eq_with_mem]

theorem OnlyMarks.defaultSize (h : OnlyMarks s t) : t.defaultSize = s.defaultSize := by
  rw [h.eq_with_mem]
  exact State.defaultSize_congr rfl rfl rfl

/-! Postconditions of operations that can stop. -/

/-- Whenever the operation answers, the state it leaves satisfies `P`. -/
def Access.Ensures (m : Access α) (P : State → Prop) : Prop := ∀ a t, m = .ok a t → P t

theorem Access.Ensures.ok {P : State → Prop} {a : α} (h : P t) : (Access.ok a t).Ensures P := by
  intro b u hu
  injection hu with _ hu
  exact hu ▸ h

theorem Access.Ensures.refused (r : Refusal) (P : State → Prop) : (Access.refused r : Access α).Ensures P :=
  fun _ _ h => nomatch h

theorem Access.Ensures.andThen {P Q : State → Prop} {m : Access α} {f : α → State → Access β} (hm : m.Ensures P)
    (hf : ∀ a t, P t → (f a t).Ensures Q) : (m.andThen f).Ensures Q := by
  intro b u h
  obtain ⟨a, t, hmt, hft⟩ := Access.andThen_eq_ok.mp h
  exact hf a t (hm a t hmt) b u hft

/-- Where exceptions end the run, an instruction that answers a next state has completed, so its postcondition holds (R182). -/
theorem Access.Ensures.of_conclude_next {P : State → Prop} {m : Access Unit} (hm : m.Ensures P)
    (hd : s.launch.deliver = .terminal) (h : s.conclude m = .next t) : P t := by
  rcases State.conclude_eq_next.mp h with hok | ⟨e, -, htake⟩
  · exact hm () t hok
  · have hv := (State.takeException_eq_next htake).1
    exact absurd (hd.symm.trans hv) (by decide)

/-! EIP through the operations. -/

/-- `t` has the EIP of `s`. -/
def State.EipKept (s t : State) : Prop := t.eip = s.eip

/-- The EIP of `t` is that of `s` plus `len`, without wrapping (R15). -/
def State.EipMoved (s : State) (len : Nat) (t : State) : Prop := t.eip.toNat = s.eip.toNat + len

theorem State.EipKept.refl (s : State) : s.EipKept s := rfl

theorem Access.MarksOnly.ensures_eipKept {m : Access α} (hm : m.MarksOnly t) (h : s.EipKept t) : m.Ensures s.EipKept :=
  fun a u hu => (hm a u hu).1.eip.trans h

theorem State.advance_eipMoved (h : s.EipKept t) (len : Nat) : (t.advance len).Ensures (s.EipMoved len) := by
  intro _ u hu
  obtain ⟨hlt, rfl⟩ := State.advance_eq_ok.mp hu
  have hsum : t.eip.toNat + len < 2 ^ 32 := hlt
  have heip : t.eip = s.eip := h
  simp only [State.EipMoved, BitVec.toNat_add, BitVec.toNat_ofNat, ← heip]
  omega

theorem State.ioWrite_eipKept (h : s.EipKept t) (port : Half) (w : Width) (v : BitVec w.bits) :
    (t.ioWrite port w v).Ensures s.EipKept := by
  intro _ u hu
  obtain ⟨-, rfl⟩ := State.ioWrite_eq_ok.mp hu
  exact h

theorem State.memUpdate_eipKept (s : State) (seg : SegReg) (off : Dword) (w : Width) (len : Nat)
    (f : BitVec w.bits → BitVec w.bits) : (s.memUpdate seg off w len f).Ensures s.EipKept := by
  have hopen := (State.openOperand_marks s seg off w .write).ensures_eipKept (.refl s)
  refine hopen.andThen fun pas t ht => ?_
  cases t.storeRefusal len pas with
  | some r => exact .refused r _
  | none => exact .ok ((State.writeAt_eip ..).trans ht)

/-! What completing does to EIP, by the shape of the instruction (R106, R134, R155, R164). -/

theorem State.finishOr_eipMoved {k : Nat} (h : s.EipKept t) (r : BitVec k) (len : Nat) :
    (t.finishOr r len).Ensures (s.EipMoved len) :=
  State.advance_eipMoved (t := t.setLogicFlags r) h len

theorem State.orToReg_eipMoved (h : s.EipKept t) (w : Width) (dst : Reg) (src : BitVec w.bits) (len : Nat) :
    (t.orToReg w dst src len).Ensures (s.EipMoved len) :=
  State.finishOr_eipMoved ((State.setReg_eip ..).trans h) _ len

theorem State.orToRm_eipMoved (s : State) (w : Width) (p : Prefixes) (rm : RM) (src : BitVec w.bits) (len : Nat) :
    (s.orToRm w p rm src len).Ensures (s.EipMoved len) := by
  cases rm with
  | reg d => exact State.orToReg_eipMoved (.refl s) w d src len
  | mem a => exact (State.memUpdate_eipKept s _ _ w len _).andThen fun r _ ht => State.finishOr_eipMoved ht r len

theorem State.orFromRm_eipMoved (s : State) (w : Width) (p : Prefixes) (dst : Reg) (rm : RM) (len : Nat) :
    (s.orFromRm w p dst rm len).Ensures (s.EipMoved len) := by
  cases rm with
  | reg r => exact State.orToReg_eipMoved (.refl s) w dst _ len
  | mem a =>
    have hread := (State.memRead_marks s (p.segFor a.defaultSeg) (s.offsetOf a) w).ensures_eipKept (.refl s)
    exact hread.andThen fun v _ ht => State.orToReg_eipMoved ht w dst v len

theorem State.outTo_eipMoved (s : State) (port : Half) (w : Width) (v : BitVec w.bits) (len : Nat) :
    (s.outTo port w v len).Ensures (s.EipMoved len) := by
  have hcheck := (State.ioCheck_marks s port w.bytes).ensures_eipKept (.refl s)
  exact hcheck.andThen fun _ _ ht =>
    (State.ioWrite_eipKept ht port w v).andThen fun _ _ hu => State.advance_eipMoved hu len

theorem State.outsItem_eipKept (s : State) (w : Width) (p : Prefixes) : (s.outsItem w p).Ensures s.EipKept := by
  have hcheck := (State.ioCheck_marks s s.portDx w.bytes).ensures_eipKept (.refl s)
  exact hcheck.andThen fun _ t ht =>
    ((State.memRead_marks t _ _ w).ensures_eipKept ht).andThen fun v _ hu =>
      (State.ioWrite_eipKept hu s.portDx w v).andThen fun _ _ hx => .ok ((State.addSized_eip ..).trans hx)

theorem State.outs_eipMoved (s : State) (w : Width) (p : Prefixes) (len : Nat) :
    (s.outs w p len).Ensures (s.EipMoved len) :=
  (State.outsItem_eipKept s w p).andThen fun _ _ ht => State.advance_eipMoved ht len

/-- REP OUTS moves EIP when the count is or becomes 0, and else leaves it (R164). -/
theorem State.repOuts_eipMoved_or_eipKept (s : State) (w : Width) (p : Prefixes) (len : Nat) :
    (s.repOuts w p len).Ensures fun t => s.EipMoved len t ∨ (s.EipKept t ∧ t.repCount p ≠ 0) := by
  unfold State.repOuts
  split
  · exact fun a t h => .inl (State.advance_eipMoved (.refl s) len a t h)
  · refine (State.outsItem_eipKept s w p).andThen fun _ t ht => ?_
    have hcount : s.EipKept (t.addSized (s.addressSize p) .ecx (-1)) := (State.addSized_eip ..).trans ht
    dsimp only
    split
    · exact fun a u h => .inl (State.advance_eipMoved hcount len a u h)
    · exact .ok (.inr ⟨hcount, ‹_›⟩)

/-- Settles O14: each instruction is one of the shapes above, and its postcondition is what the statement says of EIP. -/
theorem eipMovesByTheLength : Obligations.EipMovesByTheLength := by
  intro i s t hd h
  cases i with
  | orAlImm8 p imm | orAxImm16 p imm | orEaxImm32 p imm =>
    exact .inl ((State.orToReg_eipMoved (.refl s) _ _ _ _).of_conclude_next hd h)
  | orRm8Imm8 p rm | orRm16Imm16 p rm | orRm32Imm32 p rm | orRm16Imm8 p rm | orRm32Imm8 p rm | orRm8R8 p rm | orRm16R16 p rm
  | orRm32R32 p rm =>
    exact .inl ((State.orToRm_eipMoved s _ p rm _ _).of_conclude_next hd h)
  | orR8Rm8 p r rm | orR16Rm16 p r rm | orR32Rm32 p r rm =>
    exact .inl ((State.orFromRm_eipMoved s _ p r rm _).of_conclude_next hd h)
  | outImm8Al p | outImm8Ax p | outImm8Eax p | outDxAl p | outDxAx p | outDxEax p =>
    exact .inl ((State.outTo_eipMoved s _ _ _ _).of_conclude_next hd h)
  | outsDxRm8 p | outsDxRm16 p | outsDxRm32 p | outsb p | outsw p | outsd p =>
    exact .inl ((State.outs_eipMoved s _ p _).of_conclude_next hd h)
  | repOutsb p | repOutsw p | repOutsd p =>
    exact ((State.repOuts_eipMoved_or_eipKept s _ p _).of_conclude_next hd h).imp_right
      fun ⟨heip, hcount⟩ => ⟨heip, p, by simp, hcount⟩

/-! Fetching and decoding (R54, R72). -/

theorem State.fetchBytes_marks (s : State) (k n : Nat) : Access.MarksOnly s (s.fetchBytes k n) := by
  induction n generalizing s k with
  | zero => exact Access.MarksOnly.pure s _
  | succ n ih =>
    exact (State.fetchByte_marks s k).andThen fun _ t => (ih t (k + 1)).andThen fun _ u => Access.MarksOnly.pure u _

/-- The decoder asks for more on a proper beginning of the bytes an instruction consists of. -/
theorem decode_eq_more_of_proper_prefix {d : Size} {got more : List Byte} {i : Instr}
    (h : decode d (got ++ more) = .done i []) (hne : more ≠ []) : decode d got = .more := by
  obtain ⟨used, hused, -, hmore⟩ := decode_local d _ _ _ h
  rw [List.append_nil] at hused
  have hlen := hmore got.length (by simp [← hused, List.length_pos_iff.mpr hne])
  rwa [← hused, List.take_left] at hlen

/-- Fetching until the decoder is content answers the instruction that the fetched bytes are, once the fuel exceeds their number. -/
theorem State.fetchFrom_of_fetchBytes {got bs : List Byte} {i : Instr} {fuel : Nat}
    (hfetch : s.fetchBytes got.length bs.length = .ok bs t) (hdecode : decode s.defaultSize (got ++ bs) = .done i [])
    (hfuel : bs.length < fuel) : s.fetchFrom got fuel = .ok i t := by
  induction bs generalizing s got fuel with
  | nil =>
    obtain ⟨fuel, rfl⟩ := Nat.exists_eq_add_one.mpr hfuel
    obtain rfl : s = t := by simpa [State.fetchBytes] using hfetch
    rw [List.append_nil] at hdecode
    simp only [State.fetchFrom, hdecode]
  | cons b bs ih =>
    obtain ⟨fuel, rfl⟩ := Nat.exists_eq_add_one.mpr (Nat.zero_lt_of_lt hfuel)
    obtain ⟨b', s', hbyte, hrest⟩ := Access.andThen_eq_ok.mp hfetch
    obtain ⟨bs', t', hbytes, hcons⟩ := Access.andThen_eq_ok.mp hrest
    obtain ⟨⟨rfl, rfl⟩, rfl⟩ : (b' = b ∧ bs' = bs) ∧ t' = t := by simpa using hcons
    have hsize : s'.defaultSize = s.defaultSize := (State.fetchByte_marks s _ _ _ hbyte).1.defaultSize
    have hmore := decode_eq_more_of_proper_prefix hdecode (List.cons_ne_nil _ _)
    simp only [State.fetchFrom, hmore, hbyte, Access.andThen_ok]
    exact ih (by simpa using hbytes) (by simpa [hsize] using hdecode) (by simpa using hfuel)

/-- An instruction has at most 15 bytes, so the fuel of `fetch` suffices (R91). -/
theorem State.fetch_of_fetchBytes {bs : List Byte} {i : Instr} (hfetch : s.fetchBytes 0 bs.length = .ok bs t)
    (hdecode : decode s.defaultSize bs = .done i []) : s.fetch = .ok i t := by
  have hlen : bs.length ≤ 15 := by simpa using (decode_reads _).doneLength _ _ _ hdecode
  exact State.fetchFrom_of_fetchBytes (got := []) hfetch hdecode (by omega)

/-- A step of a state a launch may hold is the effect of what it fetched (R7). -/
theorem step_of_fetch {i : Instr} (hlaunch : s.launchRefusal = none) (hfetch : s.fetch = .ok i t) : step s = exec i t := by
  simp only [step, hlaunch, hfetch]

/-- Settles O6: the fetch stops at the decoded instruction, and it set A and D bits alone. -/
theorem stepRunsDecodedInstruction : Obligations.StepRunsDecodedInstruction := by
  intro s s1 bs i hlaunch hfetch hdecode
  exact ⟨step_of_fetch hlaunch (State.fetch_of_fetchBytes hfetch hdecode), (State.fetchBytes_marks s 0 _ bs s1 hfetch).1⟩

end Sys2Proof.Machine
end

/-! PROOFS. The state (10_state.md): what a step keeps (R18 to R25, R31), what the decoder consumes (R15, R72), the I/O permission bits
(R29, R30), registers and flags (R11 to R16), reset and launch states (R20 to R23, R34), and where EIP, a port or a fetch passes its top
(R15, R31, R54). -/

namespace Sys2Proof.Machine

variable {α β : Type} {s t u : State} {len : Nat} {evs : List IoEvent}

/-! What an instruction that completes may write, and what even the delivery of an exception leaves alone. -/

/-- The flags no instruction in scope writes: every field of EFLAGS but the six status flags (R16, R102). -/
def Eflags.control (f : Eflags) : Eflags :=
  { f with CF := false, PF := false, AF := false, ZF := false, SF := false, OF := false }

/-- The state with everything blanked that an instruction may write by completing: general registers, EIP, status flags, memory, the
I/O history and the counter of free values. -/
def State.fixedPart (s : State) : State :=
  { s with regs := State.reset.regs, eip := 0, eflags := s.eflags.control, mem := [], io := [], draws := 0 }

/-- The fixed part with everything blanked too that the delivery of a real-mode exception writes: CS, TF, IF, CR2 and the record of
delivered exceptions (R181, R183). -/
def State.runConstants (s : State) : State :=
  { s.fixedPart with
    eflags := { s.eflags.control with TF := false, IF := false }
    segs := { s.segs with cs := .resetCode }
    cr2 := 0
    delivered := [] }

theorem State.runConstants_eq_of_fixedPart_eq (h : t.fixedPart = s.fixedPart) : t.runConstants = s.runConstants := by
  calc t.runConstants = t.fixedPart.runConstants := rfl
    _ = s.fixedPart.runConstants := by rw [h]
    _ = s.runConstants := rfl

/-- `t` agrees with `s` on the fixed part, and its I/O history is that of `s` with `evs` appended (R31). -/
structure State.Appends (s : State) (evs : List IoEvent) (t : State) : Prop where
  fixedPart : t.fixedPart = s.fixedPart
  io : t.io = s.io ++ evs

theorem State.Appends.refl (s : State) : s.Appends [] s := ⟨rfl, (List.append_nil _).symm⟩

/-- An update of fields outside the fixed part and the I/O history. -/
theorem State.Appends.update (h : s.Appends evs t) (hfixed : u.fixedPart = t.fixedPart) (hio : u.io = t.io) : s.Appends evs u :=
  ⟨hfixed.trans h.fixedPart, hio.trans h.io⟩

theorem State.Appends.trans {evs' : List IoEvent} (h : s.Appends evs t) (h' : t.Appends evs' u) : s.Appends (evs ++ evs') u :=
  ⟨h'.fixedPart.trans h.fixedPart, by rw [h'.io, h.io, List.append_assoc]⟩

/-! The updates of the state leave the fixed part. -/

@[simp] theorem State.setReg_fixedPart (s : State) (w : Width) (i : Reg) (v : BitVec w.bits) :
    (s.setReg w i v).fixedPart = s.fixedPart := by cases w <;> rfl

@[simp] theorem State.addSized_fixedPart (s : State) (z : Size) (i : Reg) (k : Dword) :
    (s.addSized z i k).fixedPart = s.fixedPart := by cases z <;> rfl

@[simp] theorem State.setLogicFlags_fixedPart {k : Nat} (s : State) (r : BitVec k) :
    (s.setLogicFlags r).fixedPart = s.fixedPart := rfl

@[simp] theorem State.writeAt_fixedPart (s : State) (pas : List Dword) (bs : List Byte) :
    (s.writeAt pas bs).fixedPart = s.fixedPart := by rw [State.writeAt_eq_mem]; rfl

theorem OnlyMarks.fixedPart (h : OnlyMarks s t) : t.fixedPart = s.fixedPart := by rw [h.eq_with_mem]; rfl

theorem OnlyMarks.io (h : OnlyMarks s t) : t.io = s.io := by rw [h.eq_with_mem]

theorem OnlyMarks.appends (h : OnlyMarks s t) : s.Appends [] t := (State.Appends.refl s).update h.fixedPart h.io

/-! The operations append no event, the port write one. -/

theorem Access.MarksOnly.ensures_appends {m : Access α} (hm : m.MarksOnly t) (h : s.Appends evs t) :
    m.Ensures (s.Appends evs) :=
  fun a u hu => h.update (hm a u hu).1.fixedPart (hm a u hu).1.io

theorem State.advance_appends (h : s.Appends evs t) (len : Nat) : (t.advance len).Ensures (s.Appends evs) := by
  intro _ u hu
  obtain ⟨-, rfl⟩ := State.advance_eq_ok.mp hu
  exact h.update rfl rfl

theorem State.finishOr_appends {k : Nat} (h : s.Appends evs t) (r : BitVec k) (len : Nat) :
    (t.finishOr r len).Ensures (s.Appends evs) :=
  State.advance_appends (h.update (State.setLogicFlags_fixedPart t r) (State.setLogicFlags_io ..)) len

theorem State.orToReg_appends (h : s.Appends evs t) (w : Width) (dst : Reg) (src : BitVec w.bits) (len : Nat) :
    (t.orToReg w dst src len).Ensures (s.Appends evs) :=
  State.finishOr_appends (h.update (State.setReg_fixedPart ..) (State.setReg_io ..)) _ len

theorem State.memUpdate_appends (s : State) (seg : SegReg) (off : Dword) (w : Width) (len : Nat)
    (f : BitVec w.bits → BitVec w.bits) : (s.memUpdate seg off w len f).Ensures (s.Appends []) := by
  have hopen := (State.openOperand_marks s seg off w .write).ensures_appends (.refl s)
  refine hopen.andThen fun pas t ht => ?_
  cases t.storeRefusal len pas with
  | some r => exact .refused r _
  | none => exact .ok (ht.update (State.writeAt_fixedPart ..) (State.writeAt_io ..))

theorem State.memWrite_appends (s : State) (seg : SegReg) (off : Dword) (w : Width) (v : BitVec w.bits) :
    (s.memWrite seg off w v).Ensures (s.Appends []) := by
  have hopen := (State.openOperand_marks s seg off w .write).ensures_appends (.refl s)
  exact hopen.andThen fun pas _ ht => .ok (ht.update (State.writeAt_fixedPart ..) (State.writeAt_io ..))

theorem State.orToRm_appends (s : State) (w : Width) (p : Prefixes) (rm : RM) (src : BitVec w.bits) (len : Nat) :
    (s.orToRm w p rm src len).Ensures (s.Appends []) := by
  cases rm with
  | reg d => exact State.orToReg_appends (.refl s) w d src len
  | mem a => exact (State.memUpdate_appends s _ _ w len _).andThen fun r _ ht => State.finishOr_appends ht r len

theorem State.orFromRm_appends (s : State) (w : Width) (p : Prefixes) (dst : Reg) (rm : RM) (len : Nat) :
    (s.orFromRm w p dst rm len).Ensures (s.Appends []) := by
  cases rm with
  | reg r => exact State.orToReg_appends (.refl s) w dst _ len
  | mem a =>
    have hread := (State.memRead_marks s (p.segFor a.defaultSeg) (s.offsetOf a) w).ensures_appends (.refl s)
    exact hread.andThen fun v _ ht => State.orToReg_appends ht w dst v len

/-- The event's ports lie inside the I/O space (R31). -/
def IoEvent.InSpace (e : IoEvent) : Prop := e.port.toNat + e.width.bytes ≤ 65536

/-- `t` agrees with `s` on the fixed part, and its I/O history is that of `s` with one event appended, inside the I/O space. -/
def State.AppendsEvent (s t : State) : Prop := ∃ e : IoEvent, e.InSpace ∧ s.Appends [e] t

theorem State.ioWrite_appendsEvent (h : s.Appends [] t) (port : Half) (w : Width) (v : BitVec w.bits) :
    (t.ioWrite port w v).Ensures s.AppendsEvent := by
  intro _ u hu
  obtain ⟨hport, rfl⟩ := State.ioWrite_eq_ok.mp hu
  exact ⟨⟨port, w, v.setWidth 32⟩, hport, h.trans ⟨rfl, rfl⟩⟩

theorem State.advance_appendsEvent (h : s.AppendsEvent t) (len : Nat) : (t.advance len).Ensures s.AppendsEvent := by
  obtain ⟨e, he, h⟩ := h
  exact fun a u hu => ⟨e, he, State.advance_appends h len a u hu⟩

theorem State.AppendsEvent.addSized (h : s.AppendsEvent t) (z : Size) (i : Reg) (k : Dword) : s.AppendsEvent (t.addSized z i k) := by
  obtain ⟨e, he, h⟩ := h
  exact ⟨e, he, h.update (State.addSized_fixedPart ..) (State.addSized_io ..)⟩

theorem State.outTo_appendsEvent (s : State) (port : Half) (w : Width) (v : BitVec w.bits) (len : Nat) :
    (s.outTo port w v len).Ensures s.AppendsEvent := by
  have hcheck := (State.ioCheck_marks s port w.bytes).ensures_appends (.refl s)
  exact hcheck.andThen fun _ _ ht =>
    (State.ioWrite_appendsEvent ht port w v).andThen fun _ _ hu => State.advance_appendsEvent hu len

theorem State.outsItem_appendsEvent (s : State) (w : Width) (p : Prefixes) : (s.outsItem w p).Ensures s.AppendsEvent := by
  have hcheck := (State.ioCheck_marks s s.portDx w.bytes).ensures_appends (.refl s)
  exact hcheck.andThen fun _ t ht =>
    ((State.memRead_marks t _ _ w).ensures_appends ht).andThen fun v _ hu =>
      (State.ioWrite_appendsEvent hu s.portDx w v).andThen fun _ _ hx => .ok (hx.addSized ..)

theorem State.outs_appendsEvent (s : State) (w : Width) (p : Prefixes) (len : Nat) :
    (s.outs w p len).Ensures s.AppendsEvent :=
  (State.outsItem_appendsEvent s w p).andThen fun _ _ ht => State.advance_appendsEvent ht len

/-- What an instruction that completes does to the fixed part and the I/O history: nothing, but for one event at most. -/
def State.Completes (s t : State) : Prop := s.Appends [] t ∨ s.AppendsEvent t

theorem State.repOuts_completes (s : State) (w : Width) (p : Prefixes) (len : Nat) :
    (s.repOuts w p len).Ensures s.Completes := by
  unfold State.repOuts
  split
  · exact fun a t h => .inl (State.advance_appends (.refl s) len a t h)
  · refine (State.outsItem_appendsEvent s w p).andThen fun _ t ht => ?_
    have hcount := ht.addSized (s.addressSize p) .ecx (-1)
    dsimp only
    split
    · exact fun a u h => .inr (State.advance_appendsEvent hcount len a u h)
    · exact .ok (.inr hcount)

theorem Access.Ensures.mono {P Q : State → Prop} {m : Access α} (hm : m.Ensures P) (hPQ : ∀ t, P t → Q t) : m.Ensures Q :=
  fun a t h => hPQ t (hm a t h)

/-- Every instruction's outcome is concluded from an operation that, if it answers, has completed in the sense above. -/
theorem exec_eq_conclude (i : Instr) (s : State) : ∃ m : Access Unit, exec i s = s.conclude m ∧ m.Ensures s.Completes := by
  cases i with
  | orAlImm8 p imm | orAxImm16 p imm | orEaxImm32 p imm =>
    exact ⟨_, rfl, (State.orToReg_appends (.refl s) _ _ _ _).mono fun _ => .inl⟩
  | orRm8Imm8 p rm | orRm16Imm16 p rm | orRm32Imm32 p rm | orRm16Imm8 p rm | orRm32Imm8 p rm | orRm8R8 p rm | orRm16R16 p rm
  | orRm32R32 p rm =>
    exact ⟨_, rfl, (State.orToRm_appends s _ p rm _ _).mono fun _ => .inl⟩
  | orR8Rm8 p r rm | orR16Rm16 p r rm | orR32Rm32 p r rm =>
    exact ⟨_, rfl, (State.orFromRm_appends s _ p r rm _).mono fun _ => .inl⟩
  | outImm8Al p | outImm8Ax p | outImm8Eax p | outDxAl p | outDxAx p | outDxEax p =>
    exact ⟨_, rfl, (State.outTo_appendsEvent s _ _ _ _).mono fun _ => .inr⟩
  | outsDxRm8 p | outsDxRm16 p | outsDxRm32 p | outsb p | outsw p | outsd p =>
    exact ⟨_, rfl, (State.outs_appendsEvent s _ p _).mono fun _ => .inr⟩
  | repOutsb p | repOutsw p | repOutsd p => exact ⟨_, rfl, State.repOuts_completes s _ p _⟩

/-! Delivery of a real-mode exception (R183). -/

theorem State.pushReal_appends (h : s.Appends evs t) (v : Half) : (t.pushReal v).Ensures (s.Appends evs) := by
  refine (State.memWrite_appends t _ _ .word v).andThen fun _ u hu => .ok ?_
  exact h.update ((State.setReg_fixedPart ..).trans hu.fixedPart) (by simpa using hu.io)

/-- `t` agrees with `s` on what no delivery writes, on the I/O history, and on the record of delivered exceptions but for `e` (R183). -/
structure State.Delivers (s : State) (e : Exc) (t : State) : Prop where
  runConstants : t.runConstants = s.runConstants
  io : t.io = s.io
  delivered : t.delivered = s.delivered ++ [e]

/-- Entering the handler writes the stack, SP, EIP, CS, IF and TF alone. -/
theorem State.enterReal_delivers (e : Exc) (vector : Nat) :
    (s.enterReal vector).Ensures fun t => s.Delivers e (t.recordDelivery e) := by
  refine (State.pushReal_appends (.refl s) _).andThen fun _ _ h1 => ?_
  refine (State.pushReal_appends h1 _).andThen fun _ _ h2 => ?_
  refine (State.pushReal_appends h2 _).andThen fun _ t h3 => .ok ?_
  have hconst : t.runConstants = s.runConstants := State.runConstants_eq_of_fixedPart_eq h3.fixedPart
  have hdel : t.delivered = s.delivered := (congrArg State.delivered h3.fixedPart :)
  exact ⟨hconst, h3.io.trans (List.append_nil _), congrArg (· ++ [e]) hdel⟩

theorem State.atException_runConstants (s : State) (e : Exc) : (s.atException e).runConstants = s.runConstants := by cases e <;> rfl

theorem State.takeException_delivers {e : Exc} (h : s.takeException e = .next t) :
    s.launch.deliver = .vectorTable ∧ s.Delivers e t := by
  obtain ⟨hd, -, u, hu, rfl⟩ := State.takeException_eq_next h
  have hdel := State.enterReal_delivers e e.vector () u hu
  exact ⟨hd, hdel.runConstants.trans (State.atException_runConstants s e), hdel.io.trans (State.atException_io s e), by
    rw [hdel.delivered, State.atException_delivered]⟩

theorem OnlyMarks.delivers {e : Exc} (h : OnlyMarks s t) (hd : t.Delivers e u) : s.Delivers e u where
  runConstants := hd.runConstants.trans (State.runConstants_eq_of_fixedPart_eq h.fixedPart)
  io := hd.io.trans h.io
  delivered := by rw [hd.delivered, h.eq_with_mem]

/-- A step answers a next state by completing an instruction, or by delivering an exception, under `Deliver.vectorTable` alone. -/
theorem step_eq_next (h : step s = .next t) :
    s.Completes t ∨ (s.launch.deliver = .vectorTable ∧ ∃ e, s.Delivers e t) := by
  unfold step at h
  split at h
  · exact absurd h (by simp)
  split at h
  · rename_i i s1 hfetch
    have hmarks := (State.fetch_marks s i s1 hfetch).1
    obtain ⟨m, hm, hcompletes⟩ := exec_eq_conclude i s1
    rcases State.conclude_eq_next.mp (hm ▸ h) with hok | ⟨e, -, htake⟩
    · left
      rcases hcompletes () t hok with happ | ⟨e, he, happ⟩
      · exact .inl (hmarks.appends.trans happ)
      · exact .inr ⟨e, he, hmarks.appends.trans happ⟩
    · obtain ⟨hd, hdel⟩ := State.takeException_delivers htake
      have hlaunch : s1.launch = s.launch := (congrArg State.launch hmarks.fixedPart :)
      exact .inr ⟨hlaunch ▸ hd, e, hmarks.delivers hdel⟩
  · exact .inr ((State.takeException_delivers h).imp_right fun hdel => ⟨_, hdel⟩)
  · exact absurd h (by simp)

theorem State.Completes.fixedPart (h : s.Completes t) : t.fixedPart = s.fixedPart := by
  rcases h with h | ⟨e, -, h⟩ <;> exact h.fixedPart

/-- Settles O11: completing appends one event at most, delivering none. -/
theorem ioHistoryOnlyGrows : Obligations.IoHistoryOnlyGrows := by
  intro s t h
  rcases step_eq_next h with (happ | ⟨e, he, happ⟩) | ⟨-, e, hdel⟩
  · exact .inl (happ.io.trans (List.append_nil _))
  · exact .inr ⟨e, happ.io, he⟩
  · exact .inl hdel.io

theorem State.get_eq_of_runConstants_eq {g : SegReg} (h : t.runConstants = s.runConstants) (hg : g ≠ .cs) :
    t.segs.get g = s.segs.get g := by
  have hget : t.runConstants.segs.get g = s.runConstants.segs.get g := by rw [h]
  cases g with
  | cs => exact absurd rfl hg
  | es | ss | ds | fs | gs => exact hget

theorem step_runConstants (h : step s = .next t) : t.runConstants = s.runConstants := by
  rcases step_eq_next h with hcompl | ⟨-, e, hdel⟩
  · exact State.runConstants_eq_of_fixedPart_eq hcompl.fixedPart
  · exact hdel.runConstants

theorem step_delivered (h : step s = .next t) : t.delivered = s.delivered ∨ ∃ e, t.delivered = s.delivered ++ [e] := by
  rcases step_eq_next h with hcompl | ⟨-, e, hdel⟩
  · exact .inl (congrArg State.delivered hcompl.fixedPart :)
  · exact .inr ⟨e, hdel.delivered⟩

/-- A step that cannot have delivered an exception has completed. -/
theorem step_fixedPart (h : step s = .next t) (hnone : s.launch.deliver = .terminal ∨ t.delivered = s.delivered) :
    t.fixedPart = s.fixedPart := by
  rcases step_eq_next h with hcompl | ⟨hd, e, hdel⟩
  · exact hcompl.fixedPart
  · rcases hnone with hterm | hsame
    · exact absurd (hd.symm.trans hterm) (by decide)
    · exact absurd (hdel.delivered.symm.trans hsame) (by simp)

/-- Settles O10: what no step changes is in `runConstants`, what only a delivery changes in `fixedPart`. -/
theorem stepKeepsModeAndControl : Obligations.StepKeepsModeAndControl := by
  intro s t h
  have hc := step_runConstants h
  have hcr0 : t.cr0 = s.cr0 := (congrArg State.cr0 hc :)
  have hflags := (congrArg State.eflags hc :)
  have hvm : t.eflags.VM = s.eflags.VM := (congrArg Eflags.VM hflags :)
  refine ⟨State.mode_congr hcr0 hvm, hcr0, (congrArg State.cr3 hc :), (congrArg State.cpl hc :),
    (congrArg State.csDefaultSize hc :), (congrArg State.tr hc :), (congrArg State.debugRegs hc :), (congrArg State.launch hc :),
    (congrArg Eflags.IOPL hflags :), hvm, (congrArg Eflags.DF hflags :), (congrArg Eflags.NT hflags :),
    (congrArg Eflags.RF hflags :), fun _ => State.get_eq_of_runConstants_eq hc, step_delivered h, fun hnone => ?_⟩
  have hf := step_fixedPart h hnone
  exact ⟨(congrArg State.segs hf :), (congrArg State.cr2 hf :), (congrArg (·.eflags.TF) hf :), (congrArg (·.eflags.IF) hf :),
    (congrArg State.delivered hf :)⟩

end Sys2Proof.Machine

namespace Sys2Proof

variable {α β : Type}

/-! What a parser consumes: a value, and how many bytes it took. -/

/-- Whenever the parser is done, it has consumed some number `n` of bytes, and `P` holds of the value and of `n`. -/
def Consumes (p : List Byte → Parsed α) (P : α → Nat → Prop) : Prop :=
  ∀ bs a rest, p bs = .done a rest → ∃ n, bs.length = n + rest.length ∧ P a n

theorem Consumes.pure {P : α → Nat → Prop} {a : α} (h : P a 0) : Consumes (fun bs => .done a bs) P := by
  intro bs b rest hdone
  injection hdone with hval hrest
  exact ⟨0, by simp [hrest], hval ▸ h⟩

theorem Consumes.refuse (e : DecodeError) (P : α → Nat → Prop) : Consumes (fun _ => .bad e) P :=
  fun _ _ _ h => nomatch h

theorem Consumes.andThen {P : α → Nat → Prop} {Q : β → Nat → Prop} {p : List Byte → Parsed α} {f : α → List Byte → Parsed β}
    (hp : Consumes p P) (hf : ∀ a n, P a n → Consumes (f a) fun b m => Q b (n + m)) : Consumes (fun bs => (p bs).andThen f) Q := by
  intro bs b rest h
  obtain ⟨a, mid, hpd, hfd⟩ := Parsed.andThen_eq_done.mp h
  obtain ⟨n, hn, ha⟩ := hp bs a mid hpd
  obtain ⟨m, hm, hb⟩ := hf a n ha mid b rest hfd
  exact ⟨n + m, by omega, hb⟩

theorem Consumes.mono {P Q : α → Nat → Prop} {p : List Byte → Parsed α} (hp : Consumes p P) (hPQ : ∀ a n, P a n → Q a n) :
    Consumes p Q := by
  intro bs a rest h
  obtain ⟨n, hn, ha⟩ := hp bs a rest h
  exact ⟨n, hn, hPQ a n ha⟩

theorem takeByte_consumes : Consumes takeByte fun _ n => n = 1 := by
  intro bs a rest h
  match bs, h with
  | b :: t, h =>
    injection h with _ hrest
    exact ⟨1, by simp [hrest, Nat.add_comm], rfl⟩

theorem takeHalf_consumes : Consumes takeHalf fun _ n => n = 2 := by
  intro bs a rest h
  match bs, h with
  | b0 :: b1 :: t, h =>
    injection h with _ hrest
    exact ⟨2, by simp only [List.length_cons, hrest]; omega, rfl⟩

theorem takeDword_consumes : Consumes takeDword fun _ n => n = 4 := by
  intro bs a rest h
  match bs, h with
  | b0 :: b1 :: b2 :: b3 :: t, h =>
    injection h with _ hrest
    exact ⟨4, by simp only [List.length_cons, hrest]; omega, rfl⟩

/-! The bytes before the opcode (R73). -/

/-- The number of prefixes read, F3h among them. -/
def Scan.len (sc : Scan) : Nat := sc.p.len + sc.rep.toNat

/-- Each of the four classes of prefixes has been read or still has room. -/
theorem Scan.len_add_room (sc : Scan) : sc.len + sc.room = 4 := by
  obtain ⟨⟨o, a, g⟩, r⟩ := sc
  cases o <;> cases a <;> cases g <;> cases r <;> rfl

theorem Scan.len_add {sc sc' : Scan} {k : PrefixByte} (h : sc.add k = .ok sc') : sc'.len = sc.len + 1 := by
  have := Scan.room_add h
  have := sc.len_add_room
  have := sc'.len_add_room
  omega

theorem scanPrefixes_consumes (sc : Scan) : Consumes (scanPrefixes sc) fun x n => sc.len + n = x.1.len + 1 := by
  intro bs x rest h
  induction bs generalizing sc with
  | nil => exact absurd h (by simp [scanPrefixes])
  | cons b t ih =>
    unfold scanPrefixes at h
    split at h
    · injection h with hval hrest
      exact ⟨1, by simp [hrest, Nat.add_comm], by rw [← hval]⟩
    · split at h
      · exact absurd h (by simp)
      · rename_i sc' hadd
        obtain ⟨n, hlen, hn⟩ := ih sc' h
        have := Scan.len_add hadd
        exact ⟨n + 1, by simp only [List.length_cons]; omega, by omega⟩

/-! The r/m operand (R79 to R86). -/

/-- The operand is encodable under an address size: `RM.wf` with AddressSize given. -/
def RM.Fits (asz : Size) : RM → Prop
  | .reg _ => True
  | .mem a => a.wf = true ∧ a.size = asz

theorem RM.wf_of_fits {rm : RM} {p : Prefixes} {d : Size} (h : rm.Fits (p.addressSize d)) : rm.wf d p = true := by
  cases rm with
  | reg r => rfl
  | mem a => simpa [RM.wf, RM.Fits] using h

theorem Base16.ofNum_ne_bp : ∀ n : BitVec 3, n ≠ 6 → Base16.ofNum n ≠ .bp := by decide

theorem Reg.ofNum_ne_esp : ∀ n : BitVec 3, n ≠ 4 → Reg.ofNum n ≠ .esp := by decide

theorem Reg.ofNum_ne_ebp : ∀ n : BitVec 3, n ≠ 5 → Reg.ofNum n ≠ .ebp := by decide

/-- The operand fits the address size, and its length counts `n` bytes beside those already read. -/
def RM.Takes (asz : Size) (read : Nat) (rm : RM) (n : Nat) : Prop := rm.Fits asz ∧ rm.len = read + n

theorem decodeRm16_consumes (mod : BitVec 2) (rm : BitVec 3) : Consumes (decodeRm16 mod rm) (RM.Takes .s16 1) := by
  unfold decodeRm16
  split
  · split
    · exact takeHalf_consumes.andThen fun d n hn => .pure ⟨⟨rfl, rfl⟩, by simp [RM.len, hn]⟩
    · have hbp := Base16.ofNum_ne_bp rm ‹_›
      exact .pure ⟨⟨by simp [Addr.wf, hbp], rfl⟩, rfl⟩
  · exact takeByte_consumes.andThen fun d n hn => .pure ⟨⟨by simp [Addr.wf], rfl⟩, by simp [RM.len, Disp16.len, hn]⟩
  · exact takeHalf_consumes.andThen fun d n hn => .pure ⟨⟨by simp [Addr.wf], rfl⟩, by simp [RM.len, Disp16.len, hn]⟩
  · exact .pure ⟨trivial, rfl⟩

theorem indexOf_wf {scale : BitVec 2} {index : BitVec 3} {ix : Index} (h : indexOf scale index = .ok ix) : ix.wf = true := by
  unfold indexOf at h
  split at h
  · split at h
    · injection h with h
      rw [← h]; rfl
    · exact absurd h (by simp)
  · injection h with h
    rw [← h]
    simpa [Index.wf] using Reg.ofNum_ne_esp index ‹_›

theorem decodeSib_consumes (mod : BitVec 2) (sibByte : Byte) : Consumes (decodeSib mod sibByte) (RM.Takes .s32 2) := by
  unfold decodeSib
  split
  · exact .refuse _ _
  · rename_i ix hix
    have hwf := indexOf_wf hix
    split
    · split
      · exact takeDword_consumes.andThen fun d n hn => .pure ⟨⟨hwf, rfl⟩, by simp [RM.len, hn]⟩
      · have hebp := Reg.ofNum_ne_ebp (lowField sibByte) ‹_›
        exact .pure ⟨⟨by simp [Addr.wf, hwf, hebp], rfl⟩, rfl⟩
    · exact takeByte_consumes.andThen fun d n hn => .pure ⟨⟨by simp [Addr.wf, hwf], rfl⟩, by simp [RM.len, Disp32.len, hn]⟩
    · exact takeDword_consumes.andThen fun d n hn => .pure ⟨⟨by simp [Addr.wf, hwf], rfl⟩, by simp [RM.len, Disp32.len, hn]⟩

theorem decodeRm32_consumes (mod : BitVec 2) (rm : BitVec 3) : Consumes (decodeRm32 mod rm) (RM.Takes .s32 1) := by
  unfold decodeRm32
  split
  · exact .pure ⟨trivial, rfl⟩
  split
  · refine takeByte_consumes.andThen fun b n hn => ?_
    exact (decodeSib_consumes mod b).mono fun rm m h => ⟨h.1, by rw [h.2, hn, ← Nat.add_assoc]⟩
  · have hesp := Reg.ofNum_ne_esp rm ‹_›
    split
    · split
      · exact takeDword_consumes.andThen fun d n hn => .pure ⟨⟨rfl, rfl⟩, by simp [RM.len, hn]⟩
      · have hebp := Reg.ofNum_ne_ebp rm ‹_›
        exact .pure ⟨⟨by simp [Addr.wf, hesp, hebp], rfl⟩, rfl⟩
    · exact takeByte_consumes.andThen fun d n hn => .pure ⟨⟨by simp [Addr.wf, hesp], rfl⟩, by simp [RM.len, Disp32.len, hn]⟩
    · exact takeDword_consumes.andThen fun d n hn => .pure ⟨⟨by simp [Addr.wf, hesp], rfl⟩, by simp [RM.len, Disp32.len, hn]⟩

theorem decodeModRm_consumes (asz : Size) : Consumes (decodeModRm asz) fun x n => x.2.Takes asz 0 n := by
  unfold decodeModRm
  refine takeByte_consumes.andThen fun m n hn => ?_
  cases asz with
  | s16 => exact (decodeRm16_consumes _ _).andThen fun rm k h => .pure ⟨h.1, by simp [h.2, hn]⟩
  | s32 => exact (decodeRm32_consumes _ _).andThen fun rm k h => .pure ⟨h.1, by simp [h.2, hn]⟩

theorem decodeSlash1_consumes (asz : Size) : Consumes (decodeSlash1 asz) (RM.Takes asz 0) := by
  unfold decodeSlash1
  refine (decodeModRm_consumes asz).andThen fun x n h => ?_
  split
  · exact .pure h
  · exact .refuse _ _

/-! Instructions (R72, R88). -/

/-- The instruction is well-formed under `cs_default_size = d`, and its length counts `n` bytes beside those already read. -/
def Instr.Takes (d : Size) (read : Nat) (i : Instr) (n : Nat) : Prop := i.wf d = true ∧ i.len = read + n

theorem decodeRepBody_consumes (d : Size) (p : Prefixes) (op : Opcode) :
    Consumes (decodeRepBody d p op) (Instr.Takes d (p.len + 2)) := by
  unfold decodeRepBody
  split
  · exact .pure ⟨rfl, rfl⟩
  · split <;> exact .pure ⟨by simpa [Instr.wf], rfl⟩
  · exact .refuse _ _

theorem outsSpelling_takes {d : Size} {p : Prefixes} {written plain : Instr} {n : Nat}
    (hw : p.seg.isSome = true → written.Takes d n 0) (hp : p.seg.isNone = true → plain.Takes d n 0) :
    (outsSpelling p written plain).Takes d n 0 := by
  unfold outsSpelling
  split
  · exact hw ‹_›
  · exact hp (by simpa using Option.not_isSome_iff_eq_none.mp ‹_›)

theorem decodeBody_consumes (d : Size) (p : Prefixes) (op : Opcode) :
    Consumes (decodeBody d p op) (Instr.Takes d (p.len + 1)) := by
  cases op <;> unfold decodeBody <;> dsimp only
  case op08 | op0A =>
    exact (decodeModRm_consumes _).andThen fun x n h => .pure ⟨RM.wf_of_fits h.1, by simp [Instr.len, h.2]⟩
  case op09 | op0B =>
    refine (decodeModRm_consumes _).andThen fun x n h => ?_
    split <;> exact .pure ⟨by simp [Instr.wf, RM.wf_of_fits h.1, *], by simp [Instr.len, h.2]⟩
  case op0C | opE6 => exact takeByte_consumes.andThen fun x n h => .pure ⟨rfl, by simp [Instr.len, h]⟩
  case op0D =>
    split
    · exact takeHalf_consumes.andThen fun x n h => .pure ⟨by simpa [Instr.wf], by simp [Instr.len, h]⟩
    · exact takeDword_consumes.andThen fun x n h => .pure ⟨by simpa [Instr.wf], by simp [Instr.len, h]⟩
  case op80 =>
    exact (decodeSlash1_consumes _).andThen fun rm n h => takeByte_consumes.andThen fun x m hm =>
      .pure ⟨RM.wf_of_fits h.1, by simp [Instr.len, h.2, hm, Nat.add_assoc]⟩
  case op81 =>
    refine (decodeSlash1_consumes _).andThen fun rm n h => ?_
    split
    · exact takeHalf_consumes.andThen fun x m hm =>
        .pure ⟨by simp [Instr.wf, RM.wf_of_fits h.1, *], by simp [Instr.len, h.2, hm, Nat.add_assoc]⟩
    · exact takeDword_consumes.andThen fun x m hm =>
        .pure ⟨by simp [Instr.wf, RM.wf_of_fits h.1, *], by simp [Instr.len, h.2, hm, Nat.add_assoc]⟩
  case op83 =>
    refine (decodeSlash1_consumes _).andThen fun rm n h => takeByte_consumes.andThen fun x m hm => ?_
    split <;> exact .pure ⟨by simp [Instr.wf, RM.wf_of_fits h.1, *], by simp [Instr.len, h.2, hm, Nat.add_assoc]⟩
  case opE7 =>
    refine takeByte_consumes.andThen fun x n h => ?_
    split <;> exact .pure ⟨by simpa [Instr.wf], by simp [Instr.len, h]⟩
  case opEE => exact .pure ⟨rfl, rfl⟩
  case opEF => split <;> exact .pure ⟨by simpa [Instr.wf], rfl⟩
  case op6E => exact .pure (outsSpelling_takes (fun h => ⟨h, rfl⟩) fun h => ⟨h, rfl⟩)
  case op6F =>
    split <;> exact .pure (outsSpelling_takes (fun h => ⟨by simp [Instr.wf, *], rfl⟩) fun h => ⟨by simp only [Instr.wf, *]; rfl, rfl⟩)

theorem decode_consumes (d : Size) : Consumes (decode d) (Instr.Takes d 0) := by
  unfold decode
  refine (scanPrefixes_consumes .start).andThen fun x n h => ?_
  have hstart : Scan.start.len = 0 := rfl
  have hscan : x.1.len = x.1.p.len + x.1.rep.toNat := rfl
  split
  · exact .refuse _ _
  · split
    · rename_i hrep
      have hn : 0 + n = x.1.p.len + 2 := by simp [hrep] at hscan; omega
      exact (decodeRepBody_consumes d x.1.p _).mono fun i m hi => ⟨hi.1, by rw [hi.2, ← hn, Nat.add_assoc]⟩
    · rename_i hrep
      have hn : 0 + n = x.1.p.len + 1 := by simp [hrep] at hscan; omega
      exact (decodeBody_consumes d x.1.p _).mono fun i m hi => ⟨hi.1, by rw [hi.2, ← hn, Nat.add_assoc]⟩

/-- No instruction is longer than fourteen bytes (R91). -/
theorem Instr.len_le (i : Instr) : i.len ≤ 14 := by
  cases i with
  | orAlImm8 p | orAxImm16 p | orEaxImm32 p | outImm8Al p | outImm8Ax p | outImm8Eax p | outDxAl p | outDxAx p | outDxEax p
  | outsDxRm8 p | outsDxRm16 p | outsDxRm32 p | outsb p | outsw p | outsd p | repOutsb p | repOutsw p | repOutsd p =>
    have := Laws.Length.prefixes_le p
    simp only [Instr.len]
    omega
  | orRm8Imm8 p rm | orRm16Imm16 p rm | orRm32Imm32 p rm | orRm16Imm8 p rm | orRm32Imm8 p rm | orRm8R8 p rm | orRm16R16 p rm
  | orRm32R32 p rm | orR8Rm8 p r rm | orR16Rm16 p r rm | orR32Rm32 p r rm =>
    have := Laws.Length.prefixes_le p
    have := Laws.Length.rm_le rm
    simp only [Instr.len]
    omega

/-- Settles O2: the decoder is local, and what it consumes is the length of the instruction. -/
theorem decodedInstructionHasItsLength : Obligations.DecodedInstructionHasItsLength := by
  intro d bs rest i h
  obtain ⟨used, rfl, -⟩ := decode_local d bs i rest h
  obtain ⟨n, hlen, hwf, hi⟩ := decode_consumes d _ i rest h
  rw [List.length_append] at hlen
  exact ⟨hwf, i.len_le, used, rfl, by omega⟩

end Sys2Proof

namespace Sys2Proof.Machine

variable {s : State}

/-! The I/O permission bits without paging (R29, R30). -/

theorem State.pageTranslate_of_unpaged (h : s.paging = false) (lin : Dword) (kind : AccessKind) (user : Bool) :
    s.pageTranslate lin kind user = .ok lin s := by
  simp [State.pageTranslate, h]

theorem State.readLinear16_of_unpaged (h : s.paging = false) (lin : Dword) :
    s.readLinear16 lin = .ok (s.readAt .word [lin, lin + 1]) s := by
  simp [State.readLinear16, State.translateAll, State.pageTranslate_of_unpaged h]

/-- A word in memory is its two bytes, the one at the lower address last (R40). -/
theorem State.readAt_word (s : State) (a b : Dword) : s.readAt .word [a, b] = s.readPhys b ++ s.readPhys a := by
  have ha := (s.readPhys a).isLt
  have hb := (s.readPhys b).isLt
  apply BitVec.eq_of_toNat_eq
  rw [BitVec.toNat_append, ← Nat.shiftLeft_add_eq_or_of_lt ha, Nat.shiftLeft_eq]
  simp only [State.readAt, List.map_cons, List.map_nil, leNat, BitVec.toNat_ofNat, Width.bits]
  omega

/-- The bits of the mask of R30 are those of the `n` ports from `port` on. -/
theorem ioMask_getLsbD (port : Half) (n i : Nat) :
    (ioMask port n).getLsbD i = (decide (i < 16) && decide (port.toNat % 8 ≤ i) && decide (i - port.toNat % 8 < n)) := by
  simp only [ioMask, BitVec.getLsbD_ofNat, Nat.testBit_mul_two_pow, Nat.testBit_two_pow_sub_one, Bool.and_assoc]

/-- A word under the mask is 0 exactly when the bits of the `n` ports from `port` on are (R30). -/
theorem and_ioMask_eq_zero_iff (bits port : Half) (w : Width) :
    bits &&& ioMask port w.bytes = 0 ↔ ∀ j < w.bytes, bits.getLsbD (port.toNat % 8 + j) = false := by
  have hbytes : w.bytes ≤ 4 := by cases w <;> decide
  constructor
  · intro h j hj
    have hbit := congrArg (BitVec.getLsbD · (port.toNat % 8 + j)) h
    have hlt : port.toNat % 8 + j < 16 := by omega
    simpa only [BitVec.getLsbD_and, ioMask_getLsbD, hlt, hj, Nat.le_add_right, Nat.add_sub_cancel_left, decide_true,
      Bool.and_true, BitVec.ofNat_eq_ofNat, BitVec.getLsbD_zero] using hbit
  · intro h
    apply BitVec.eq_of_getLsbD_eq
    intro i hi
    simp only [BitVec.getLsbD_and, ioMask_getLsbD]
    by_cases hin : port.toNat % 8 ≤ i ∧ i - port.toNat % 8 < w.bytes
    · have hbit := h _ hin.2
      rw [Nat.add_sub_cancel' hin.1] at hbit
      simp [hbit]
    · rcases not_and_or.mp hin with hlo | hhi
      · simp [hlo]
      · simp [hhi]

/-- The word of the permission bitmap that holds the bits of the ports from `port` on, read as without paging (R30). -/
def State.permissionWord (s : State) (port : Half) : Half :=
  let a := s.tr.base + BitVec.ofNat 32 (s.ioBase + port.toNat / 8)
  s.readAt .word [a, a + 1]

/-- Bit `port % 8 + j` of the word at the byte of `port` is the permission bit of port `port + j` (R29). -/
theorem State.permissionWord_getLsbD (s : State) (port : Half) {j : Nat} (hj : j ≤ 8) :
    (s.permissionWord port).getLsbD (port.toNat % 8 + j) = s.permissionBit (port.toNat + j) := by
  rw [State.permissionWord, State.readAt_word, BitVec.getLsbD_append, State.permissionBit]
  by_cases hlow : port.toNat % 8 + j < 8
  · have hdiv : (port.toNat + j) / 8 = port.toNat / 8 := by omega
    have hmod : (port.toNat + j) % 8 = port.toNat % 8 + j := by omega
    simp only [hlow, hdiv, hmod, if_true]
  · have hdiv : (port.toNat + j) / 8 = port.toNat / 8 + 1 := by omega
    have hmod : (port.toNat + j) % 8 = port.toNat % 8 + j - 8 := by omega
    have haddr (k : Nat) : s.tr.base + BitVec.ofNat 32 (s.ioBase + (k + 1)) = s.tr.base + BitVec.ofNat 32 (s.ioBase + k) + 1 := by
      rw [← Nat.add_assoc, BitVec.ofNat_add, ← BitVec.add_assoc]; rfl
    simp only [hlow, hdiv, hmod, haddr, if_false]

/-- Without paging `IOPermission` on a 386 TSS tests one word of the bitmap, or denies where the limit ends before it (R30). -/
theorem State.ioPermission_of_unpaged (hp : s.paging = false) (ht : s.tr.type = .tss386) (port : Half) (n : Nat) :
    s.ioPermission port n =
      if s.ioBase + port.toNat / 8 + 1 > s.tr.limit.toNat then .ok false s
      else .ok (s.permissionWord port &&& ioMask port n = 0) s := by
  have hbase : s.readLinear16 (s.tr.base + 0x66) = .ok (s.readAt .word [s.tr.base + 0x66, s.tr.base + 0x67]) s := by
    rw [State.readLinear16_of_unpaged hp, BitVec.add_assoc]
    rfl
  simp only [State.ioPermission, ht, hbase, Access.andThen_ok, State.ioBase, State.readLinear16_of_unpaged hp]
  rfl

/-- Settles O46: the mask test on the word is the test of the bit of every port. -/
theorem permissionTestsEveryPortBit : Obligations.PermissionTestsEveryPortBit := by
  intro s port w hp
  refine ⟨fun ht => ?_, fun ht hlimit => ?_, fun ht hlimit => ?_⟩
  · simp only [State.ioPermission, ht]
  · rw [State.ioPermission_of_unpaged hp ht, if_pos (by omega)]
  · refine ⟨_, (State.ioPermission_of_unpaged hp ht port _).trans (if_neg (by omega)), ?_⟩
    have hbytes : w.bytes ≤ 4 := by cases w <;> decide
    rw [decide_eq_true_iff, and_ioMask_eq_zero_iff]
    refine forall₂_congr fun j hj => ?_
    rw [State.permissionWord_getLsbD s port (by omega)]

end Sys2Proof.Machine

namespace Sys2Proof.Machine

variable {s : State}

/-! General registers (R11 to R13). -/

theorem Regs.get32_set32 (x : Regs) (i j : Reg) (v : Dword) : (x.set32 i v).get32 j = if j = i then v else x.get32 j := by
  split
  · rename_i h
    rw [h, Regs.get32_set32_same]
  · exact Regs.get32_set32_other x v ‹_›

/-- The number of the 8-bit register that is the given byte of EAX, ECX, EDX or EBX (R12). -/
def byteRegOf : Reg → Bool → Reg
  | .eax, true => .esp
  | .ecx, true => .ebp
  | .edx, true => .esi
  | .ebx, true => .edi
  | r, _ => r

theorem byteRegOf_home_isHigh (i : Reg) : byteRegOf (byteRegHome i) (byteRegIsHigh i) = i := by cases i <;> rfl

/-- An 8-bit register is known by the 32-bit register it is part of and the half of it that it is (R12). -/
theorem byteReg_ext {i j : Reg} (hhome : byteRegHome i = byteRegHome j) (hhigh : byteRegIsHigh i = byteRegIsHigh j) : i = j := by
  rw [← byteRegOf_home_isHigh i, hhome, hhigh, byteRegOf_home_isHigh]

/-- The 32-bit register an 8-bit write leaves, `high` saying which byte was written (R13). -/
def replaceByte (high : Bool) (old : Dword) (v : Byte) : Dword :=
  if high then old.extractLsb' 16 16 ++ (v ++ old.extractLsb' 0 8) else old.extractLsb' 8 24 ++ v

/-- The byte of a 32-bit register that an 8-bit register is (R12). -/
def selectByte (high : Bool) (old : Dword) : Byte := if high then old.extractLsb' 8 8 else old.extractLsb' 0 8

theorem Regs.set8_eq (x : Regs) (i : Reg) (v : Byte) :
    x.set8 i v = x.set32 (byteRegHome i) (replaceByte (byteRegIsHigh i) (x.get32 (byteRegHome i)) v) := rfl

theorem Regs.get8_eq (x : Regs) (i : Reg) : x.get8 i = selectByte (byteRegIsHigh i) (x.get32 (byteRegHome i)) := rfl

theorem selectByte_replaceByte (h k : Bool) (old : Dword) (v : Byte) :
    selectByte k (replaceByte h old v) = if k = h then v else selectByte k old := by
  apply BitVec.eq_of_getLsbD_eq
  intro i hi
  have h8 : ¬ 8 + i < 8 := by omega
  have h16 : ¬ 8 + 8 ≤ i := by omega
  have h24 : i < 24 := by omega
  cases h <;> cases k <;>
    simp [selectByte, replaceByte, BitVec.getLsbD_append, hi, h8, h16, h24, -Nat.reduceAdd, -BitVec.getLsbD_eq_getElem]

theorem Regs.get8_set8 (x : Regs) (i j : Reg) (v : Byte) : (x.set8 i v).get8 j = if j = i then v else x.get8 j := by
  rw [Regs.set8_eq, Regs.get8_eq, Regs.get8_eq, Regs.get32_set32]
  by_cases hhome : byteRegHome j = byteRegHome i
  · have hiff : byteRegIsHigh j = byteRegIsHigh i ↔ j = i := ⟨byteReg_ext hhome, fun h => h ▸ rfl⟩
    simp only [hhome, if_true, selectByte_replaceByte, hiff]
  · have hne : j ≠ i := fun h => hhome (h ▸ rfl)
    simp only [hhome, hne, if_false]

/-- Settles O16: each width's write is a 32-bit write of the register it is part of. -/
theorem narrowWriteKeepsOtherBits : Obligations.NarrowWriteKeepsOtherBits := by
  intro s i j
  refine ⟨Regs.get32_set32 s.regs i j, fun v => Regs.get32_set32 s.regs i j _, Regs.get8_set8 s.regs i j, fun v hi => ?_,
    fun v k hik => ?_⟩
  · rcases hi with rfl | rfl | rfl | rfl <;> exact Regs.get32_set32 s.regs _ j _
  · simp only [List.mem_cons, Prod.mk.injEq, List.not_mem_nil, or_false] at hik
    rcases hik with ⟨rfl, rfl⟩ | ⟨rfl, rfl⟩ | ⟨rfl, rfl⟩ | ⟨rfl, rfl⟩ <;> exact Regs.get32_set32 s.regs _ j _

/-- Settles O15: the parts of a register are read from it by definition, and the numbers are a table. -/
theorem subregistersAreTheirBits : Obligations.SubregistersAreTheirBits :=
  fun _ => ⟨fun _ => rfl, ⟨rfl, rfl, rfl, rfl⟩, ⟨rfl, rfl, rfl, rfl⟩, ⟨rfl, rfl, rfl, rfl, rfl, rfl, rfl, rfl⟩⟩

/-! EFLAGS as a word (R16). -/

/-- The bits of EFLAGS from bit 0 on; those beyond the list are 0. -/
def Eflags.bits (f : Eflags) : List Bool :=
  [f.CF, true, f.PF, false, f.AF, false, f.ZF, f.SF, f.TF, f.IF, f.DF, f.OF, f.IOPL.getLsbD 0, f.IOPL.getLsbD 1, f.NT, false,
    f.RF, f.VM]

theorem Eflags.word_getLsbD (f : Eflags) {i : Nat} (hi : i < 32) : f.word.getLsbD i = f.bits.getD i false := by
  simp only [Eflags.word, BitVec.getLsbD_append, BitVec.getLsbD_ofBool]
  interval_cases i <;> rfl

/-- Settles O17: each clause reads bits off the list. -/
theorem eflagsWordLayout : Obligations.EflagsWordLayout := by
  intro f
  have hbit (i : Nat) (hi : i < 32) := f.word_getLsbD hi
  refine ⟨hbit 0 ?_, hbit 1 ?_, hbit 2 ?_, hbit 3 ?_, hbit 4 ?_, hbit 5 ?_, hbit 6 ?_, hbit 7 ?_, hbit 8 ?_, hbit 9 ?_, hbit 10 ?_,
    hbit 11 ?_, ?_, hbit 14 ?_, hbit 15 ?_, hbit 16 ?_, hbit 17 ?_, ?_, rfl⟩
  case refine_13 =>
    apply BitVec.eq_of_getLsbD_eq
    intro i hi
    rw [BitVec.getLsbD_extractLsb', hbit (12 + i) (by omega)]
    interval_cases i <;> rfl
  case refine_18 =>
    apply BitVec.eq_of_getLsbD_eq
    intro i hi
    rw [BitVec.getLsbD_extractLsb', hbit (18 + i) (by omega)]
    simp [Eflags.bits]
  all_goals decide

/-! Default segments (R26, R81 to R84). -/

theorem baseDefaultSeg_eq_ss_iff (r : Reg) : baseDefaultSeg r = .ss ↔ r = .ebp ∨ r = .esp := by cases r <;> decide

theorem Base16.defaultSeg_eq_ss_iff (b : Base16) : b.defaultSeg = .ss ↔ b = .bpSi ∨ b = .bpDi ∨ b = .bp := by cases b <;> decide

theorem baseDefaultSeg_ss_or_ds (r : Reg) : baseDefaultSeg r = .ss ∨ baseDefaultSeg r = .ds := by cases r <;> decide

theorem Base16.defaultSeg_ss_or_ds (b : Base16) : b.defaultSeg = .ss ∨ b.defaultSeg = .ds := by cases b <;> decide

/-- Settles O33: by the operand's base, of which each form of address has one or none. -/
theorem defaultSegmentFollowsBase : Obligations.DefaultSegmentFollowsBase := by
  refine ⟨fun a => ?_, fun a => ?_, fun o z g dflt => ⟨rfl, rfl⟩⟩
  · cases a with
    | direct16 d | direct32 d | sibNoBase ix d => simp [Addr.defaultSeg]
    | based16 b d => simp [Addr.defaultSeg, Base16.defaultSeg_eq_ss_iff]
    | based32 r d => simp [Addr.defaultSeg, baseDefaultSeg_eq_ss_iff]
    | sib base ix d => simp [Addr.defaultSeg, baseDefaultSeg_eq_ss_iff]
  · cases a with
    | direct16 d | direct32 d | sibNoBase ix d => exact .inr rfl
    | based16 b d => exact Base16.defaultSeg_ss_or_ds b
    | based32 r d | sib r ix d => exact baseDefaultSeg_ss_or_ds r

/-! Port events (R31). -/

theorem extractByte_setWidth {k : Nat} (v : BitVec k) (i : Nat) (hk : i + 8 ≤ k) (hk' : k ≤ 32) :
    (v.setWidth 32).extractLsb' i 8 = v.extractLsb' i 8 := by
  apply BitVec.eq_of_getLsbD_eq
  intro j hj
  have hlt : i + j < 32 := by omega
  simp [hj, hlt]

/-- Settles O48. -/
theorem portEventBytes : Obligations.PortEventBytes := by
  intro port b h v
  refine ⟨?_, ?_, rfl⟩
  · simp [IoEvent.bytes, List.range_succ, extractByte_setWidth]
  · simp [IoEvent.bytes, List.range_succ, extractByte_setWidth]

/-! Reset and launch states (R20 to R23, R34). -/

/-- Settles O7: the state after reset is closed, so each clause is computed. -/
theorem resetHoldsGivenValues : Obligations.ResetHoldsGivenValues := by
  refine ⟨rfl, by decide, rfl, rfl, rfl, rfl, rfl, rfl, rfl, rfl, rfl, rfl, fun g => ?_, fun g hg => ?_, rfl, rfl, by decide, rfl⟩
  · cases g <;> exact ⟨rfl, rfl, rfl⟩
  · cases g with
    | cs => exact absurd rfl hg
    | es | ss | ds | fs | gs => exact ⟨rfl, rfl, rfl⟩

theorem step_of_launchRefusal {r : Refusal} (h : s.launchRefusal = some r) : step s = .refused r := by
  simp only [step, h]

theorem step_of_illegalMode (hpe : s.pe = false) (hvm : s.eflags.VM = true) : step s = .refused .illegalMode :=
  step_of_launchRefusal (by simp [State.launchRefusal, hpe, hvm])

/-- Settles O12. -/
theorem modeFromPeAndVm : Obligations.ModeFromPeAndVm := by
  intro s
  refine ⟨fun hpe => ?_, fun hpe hvm => ?_, fun hpe hvm => ?_, step_of_illegalMode⟩
  · rw [State.mode, State.pe, hpe]; rfl
  · rw [State.mode, State.pe, hpe, hvm]; rfl
  · rw [State.mode, State.pe, hpe, hvm]; rfl

/-- The mask of R22's test takes the low byte. -/
theorem and_0xFF_eq_zero_iff (x : Dword) : x &&& 0xFF = 0 ↔ x.extractLsb' 0 8 = 0 := by
  rw [← BitVec.toNat_inj, ← BitVec.toNat_inj, BitVec.toNat_and, BitVec.extractLsb'_toNat, Nat.shiftRight_zero]
  exact iff_of_eq (congrArg (· = 0) (Nat.and_two_pow_sub_one_eq_mod x.toNat 8))

/-- Settles O13: the tests of `launchRefusal` in their order. -/
theorem illegalLaunchStatesRefused : Obligations.IllegalLaunchStatesRefused := by
  refine ⟨fun s => step_of_illegalMode, fun s hmode htf => ?_, fun s hmode htf hdr7 => ?_⟩
  all_goals have hlegal : (!s.pe && s.eflags.VM) = false := by rcases hmode with h | h <;> simp [h]
  · exact step_of_launchRefusal (by simp [State.launchRefusal, hlegal, htf])
  · have hon : s.debugRegs.dr7 &&& 0xFF ≠ 0 := mt (and_0xFF_eq_zero_iff _).mp hdr7
    exact step_of_launchRefusal (by simp only [State.launchRefusal, hlegal, htf, Bool.false_eq_true, if_false, if_pos hon])

end Sys2Proof.Machine

namespace Sys2Proof.Machine

variable {s t u : State} {len : Nat} {p : Prefixes} {f : Width × Instr}

/-! The effect of the instructions of each shape, by the lists the statements range over. -/

theorem exec_of_mem_orRegisterForms {r q : Reg} {b : Byte} {h : Half} {v : Dword} {i : Instr}
    (hi : i ∈ orRegisterForms p r q b h v) (s : State) :
    ∃ (w : Width) (dst : Reg) (src : BitVec w.bits), exec i s = s.conclude (s.orToReg w dst src i.len) := by
  simp only [orRegisterForms, List.mem_cons, List.not_mem_nil, or_false] at hi
  rcases hi with rfl | rfl | rfl | rfl | rfl | rfl | rfl | rfl | rfl | rfl | rfl | rfl | rfl | rfl <;> exact ⟨_, _, _, rfl⟩

theorem exec_of_mem_orMemoryForms {a : Addr} {r : Reg} {b : Byte} {h : Half} {v : Dword} (hf : f ∈ orMemoryForms p a r b h v)
    (s : State) : ∃ src : BitVec f.1.bits,
      exec f.2 s = s.conclude (s.orToMem f.1 (p.segFor a.defaultSeg) (s.offsetOf a) src f.2.len) := by
  simp only [orMemoryForms, List.mem_cons, List.not_mem_nil, or_false] at hf
  rcases hf with rfl | rfl | rfl | rfl | rfl | rfl | rfl | rfl <;> exact ⟨_, rfl⟩

theorem exec_of_mem_orLoadForms {a : Addr} {r : Reg} (hf : f ∈ orLoadForms p a r) (s : State) :
    exec f.2 s = s.conclude (s.orFromRm f.1 p r (.mem a) f.2.len) := by
  simp only [orLoadForms, List.mem_cons, List.not_mem_nil, or_false] at hf
  rcases hf with rfl | rfl | rfl <;> rfl

theorem exec_of_mem_outImmForms {n : Byte} (hf : f ∈ outImmForms p n) (s : State) :
    ∃ v : BitVec f.1.bits, exec f.2 s = s.conclude (s.outTo (n.setWidth 16) f.1 v f.2.len) := by
  simp only [outImmForms, List.mem_cons, List.not_mem_nil, or_false] at hf
  rcases hf with rfl | rfl | rfl <;> exact ⟨_, rfl⟩

theorem exec_of_mem_outDxForms (hf : f ∈ outDxForms p) (s : State) :
    ∃ v : BitVec f.1.bits, exec f.2 s = s.conclude (s.outTo s.portDx f.1 v f.2.len) := by
  simp only [outDxForms, List.mem_cons, List.not_mem_nil, or_false] at hf
  rcases hf with rfl | rfl | rfl <;> exact ⟨_, rfl⟩

theorem exec_of_mem_outsForms (hf : f ∈ outsForms p) (s : State) : exec f.2 s = s.conclude (s.outs f.1 p f.2.len) := by
  simp only [outsForms, List.mem_cons, List.not_mem_nil, or_false] at hf
  rcases hf with rfl | rfl | rfl | rfl | rfl | rfl <;> rfl

theorem exec_of_mem_repOutsForms (hf : f ∈ repOutsForms p) (s : State) :
    exec f.2 s = s.conclude (s.repOuts f.1 p f.2.len) := by
  simp only [repOutsForms, List.mem_cons, List.not_mem_nil, or_false] at hf
  rcases hf with rfl | rfl | rfl <;> rfl

/-! EIP past 2^32 - 1 (R15, D20). -/

theorem State.pastTop_congr (h : t.eip = s.eip) : t.pastTop len ↔ s.pastTop len := by rw [State.pastTop, State.pastTop, h]

theorem State.advance_of_pastTop (h : s.pastTop len) : s.advance len = .refused .eipPastTop := if_pos h

theorem State.orToReg_of_pastTop (h : s.pastTop len) (w : Width) (dst : Reg) (src : BitVec w.bits) :
    s.orToReg w dst src len = .refused .eipPastTop :=
  State.advance_of_pastTop ((State.pastTop_congr (by simp)).mpr h)

theorem State.orToMem_of_pastTop {w : Width} {seg : SegReg} {off : Dword} {pas : List Dword}
    (hopen : s.openOperand seg off w .write = .ok pas t) (hstore : t.storeRefusal len pas = none) (h : s.pastTop len)
    (src : BitVec w.bits) : s.orToMem w seg off src len = .refused .eipPastTop := by
  have heip : t.eip = s.eip := (State.openOperand_marks s seg off w .write pas t hopen).1.eip
  rw [State.orToMem, State.memUpdate_of_open _ hopen hstore, Access.andThen_ok]
  exact State.advance_of_pastTop ((State.pastTop_congr (by simpa using heip)).mpr h)

theorem State.orFromRm_mem_of_pastTop {w : Width} {a : Addr} {v : BitVec w.bits}
    (hread : s.memRead (p.segFor a.defaultSeg) (s.offsetOf a) w = .ok v t) (h : s.pastTop len) (dst : Reg) :
    s.orFromRm w p dst (.mem a) len = .refused .eipPastTop := by
  have heip : t.eip = s.eip := (State.memRead_marks s _ _ w v t hread).1.eip
  rw [State.orFromRm, hread, Access.andThen_ok]
  exact State.orToReg_of_pastTop ((State.pastTop_congr heip).mpr h) w dst v

/-! Port writes (R31, D9). -/

theorem State.ioWrite_of_inSpace {port : Half} {w : Width} (h : port.toNat + w.bytes ≤ 65536) (v : BitVec w.bits) :
    s.ioWrite port w v = .ok () { s with io := s.io ++ [⟨port, w, v.setWidth 32⟩] } :=
  State.ioWrite_eq_ok.mpr ⟨h, rfl⟩

theorem State.ioWrite_of_pastTop {port : Half} {w : Width} (h : 65536 < port.toNat + w.bytes) (v : BitVec w.bits) :
    s.ioWrite port w v = .refused .portPastTop := if_pos h

/-- A port in an immediate byte is never past the top. -/
theorem immediatePort_inSpace (n : Byte) (w : Width) : (n.setWidth 16 : Half).toNat + w.bytes ≤ 65536 := by
  have hn : (n.setWidth 16 : Half).toNat < 256 := by
    rw [BitVec.toNat_setWidth_of_le (by decide)]
    exact n.isLt
  have hw : w.bytes ≤ 4 := by cases w <;> decide
  omega

theorem State.outTo_of_pastTop {port : Half} {w : Width} (hcheck : s.ioCheck port w.bytes = .ok () t)
    (hport : port.toNat + w.bytes ≤ 65536) (h : s.pastTop len) (v : BitVec w.bits) :
    s.outTo port w v len = .refused .eipPastTop := by
  have heip : t.eip = s.eip := (State.ioCheck_marks s _ _ _ _ hcheck).1.eip
  rw [State.outTo, hcheck, Access.andThen_ok, State.ioWrite_of_inSpace hport, Access.andThen_ok]
  exact State.advance_of_pastTop ((State.pastTop_congr (s := s) heip).mpr h)

theorem State.outTo_of_portPastTop {port : Half} {w : Width} (hcheck : s.ioCheck port w.bytes = .ok () t)
    (hport : 65536 < port.toNat + w.bytes) (v : BitVec w.bits) : s.outTo port w v len = .refused .portPastTop := by
  rw [State.outTo, hcheck, Access.andThen_ok, State.ioWrite_of_pastTop hport, Access.andThen_refused]

theorem State.outsItem_of_portPastTop {w : Width} {v : BitVec w.bits} (hcheck : s.ioCheck s.portDx w.bytes = .ok () t)
    (hread : t.memRead (p.segFor .ds) (s.sourceIndex p) w = .ok v u) (hport : 65536 < s.portDx.toNat + w.bytes) :
    s.outsItem w p = .refused .portPastTop := by
  simp only [State.outsItem, hcheck, hread, Access.andThen_ok, State.ioWrite_of_pastTop hport, Access.andThen_refused]

/-! One item of OUTS, permission given, item readable and port inside the I/O space (R155). -/

/-- The state one transferred item leaves: `t` with the event appended and the source index moved. -/
def State.afterItem (s t : State) (w : Width) (p : Prefixes) (v : BitVec w.bits) : State :=
  State.addSized { t with io := t.io ++ [⟨s.portDx, w, v.setWidth 32⟩] } (s.addressSize p) .esi (s.incDec w)

theorem State.outsItem_of_ready {w : Width} {v : BitVec w.bits} (h : OutsReady w p s t u v) :
    s.outsItem w p = .ok () (s.afterItem u w p v) := by
  obtain ⟨hcheck, hread, hport⟩ := h
  simp only [State.outsItem, hcheck, hread, Access.andThen_ok, State.ioWrite_of_inSpace hport]
  rfl

theorem OutsReady.onlyMarks {w : Width} {v : BitVec w.bits} (h : OutsReady w p s t u v) : OnlyMarks s u :=
  (State.ioCheck_marks s _ _ _ _ h.1).1.trans (State.memRead_marks t _ _ w v u h.2.1).1

@[simp] theorem State.afterItem_eip {w : Width} {v : BitVec w.bits} (h : OnlyMarks s t) : (s.afterItem t w p v).eip = s.eip :=
  (State.addSized_eip ..).trans h.eip

theorem State.outs_of_pastTop {w : Width} {v : BitVec w.bits} (hready : OutsReady w p s t u v) (h : s.pastTop len) :
    s.outs w p len = .refused .eipPastTop := by
  rw [State.outs, State.outsItem_of_ready hready, Access.andThen_ok]
  exact State.advance_of_pastTop ((State.pastTop_congr (State.afterItem_eip hready.onlyMarks)).mpr h)

/-! The count of REP (R164). -/

theorem State.getSized_congr (h : t.regs = s.regs) (z : Size) (i : Reg) : t.getSized z i = s.getSized z i := by
  cases z <;> simp only [State.getSized, State.getReg, h]

theorem State.getSized_addSized_other {i j : Reg} (h : j ≠ i) (z : Size) (k : Dword) :
    (s.addSized z i k).getSized z j = s.getSized z j := by
  cases z <;> simp [State.getSized, State.addSized, State.getReg, State.setReg, Regs.get16, Regs.set16, Regs.get32_set32_other, h]

theorem State.getSized_addSized_neg_one {z : Size} {i : Reg} (h : s.getSized z i = 1) :
    (s.addSized z i (-1)).getSized z i = 0 := by
  cases z with
  | s16 =>
    have hword : s.getReg .word i = 1 := by
      have := congrArg (BitVec.setWidth 16) h
      simpa [State.getSized] using this
    simp only [State.getSized, State.addSized, State.getReg_setReg_word, hword]
    rfl
  | s32 =>
    have hdword : s.getReg .dword i = 1 := h
    simp only [State.getSized, State.addSized, State.getReg_setReg_dword, hdword]
    rfl

theorem State.addressSize_congr (h : t.defaultSize = s.defaultSize) (p : Prefixes) : t.addressSize p = s.addressSize p := by
  rw [State.addressSize, State.addressSize, h]

theorem State.addSized_addressSize (s : State) (z : Size) (i : Reg) (k : Dword) (p : Prefixes) :
    (s.addSized z i k).addressSize p = s.addressSize p :=
  State.addressSize_congr (State.defaultSize_congr (by simp) (by simp) (by simp)) p

theorem State.afterItem_addressSize {w : Width} {v : BitVec w.bits} (h : OnlyMarks s t) :
    (s.afterItem t w p v).addressSize p = s.addressSize p :=
  (State.addSized_addressSize ..).trans (State.addressSize_congr (t := { t with io := _ }) h.defaultSize p)

theorem State.afterItem_repCount {w : Width} {v : BitVec w.bits} (h : OnlyMarks s t) :
    (s.afterItem t w p v).repCount p = s.repCount p := by
  rw [State.repCount, State.afterItem_addressSize h, State.afterItem, State.getSized_addSized_other (by decide)]
  exact State.getSized_congr (by rw [h.eq_with_mem]) _ _

theorem State.repOuts_of_count_zero {w : Width} (hcount : s.repCount p = 0) : s.repOuts w p len = s.advance len := if_pos hcount

theorem State.repOuts_of_pastTop {w : Width} {v : BitVec w.bits} (hcount : s.repCount p = 1) (hready : OutsReady w p s t u v)
    (h : s.pastTop len) : s.repOuts w p len = .refused .eipPastTop := by
  have hmarks := hready.onlyMarks
  have hsize := State.afterItem_addressSize (p := p) (v := v) hmarks
  have hone : (s.afterItem u w p v).getSized (s.addressSize p) .ecx = 1 := by
    rw [← hsize]
    exact (State.afterItem_repCount hmarks).trans hcount
  have hzero : ((s.afterItem u w p v).addSized (s.addressSize p) .ecx (-1)).repCount p = 0 := by
    rw [State.repCount, State.addSized_addressSize, hsize]
    exact State.getSized_addSized_neg_one hone
  have hne : s.repCount p ≠ 0 := by rw [hcount]; decide
  simp only [State.repOuts, hne, if_false, State.outsItem_of_ready hready, Access.andThen_ok, hzero, if_true]
  exact State.advance_of_pastTop ((State.pastTop_congr ((State.addSized_eip ..).trans (State.afterItem_eip hmarks))).mpr h)

/-- Settles O30: each shape advances EIP last, and that advance is refused. -/
theorem eipPastTopRefused : Obligations.EipPastTopRefused := by
  intro p s
  refine ⟨fun r q b h v i hi hpast => ?_, fun a r b h v f hf s1 pas hopen hstore hpast => ?_, fun a r f hf s1 v hread hpast => ?_,
    fun n f hf s1 hcheck hpast => ?_, fun f hf s1 hcheck hport hpast => ?_, fun f hf s1 s2 v hready hpast => ?_,
    fun f hf hpast => ⟨fun hcount => ?_, fun s1 s2 v hcount hready => ?_⟩⟩
  · obtain ⟨w, dst, src, he⟩ := exec_of_mem_orRegisterForms hi s
    rw [he, State.orToReg_of_pastTop hpast, State.conclude_refused]
  · obtain ⟨src, he⟩ := exec_of_mem_orMemoryForms hf s
    rw [he, State.orToMem_of_pastTop hopen hstore hpast, State.conclude_refused]
  · rw [exec_of_mem_orLoadForms hf, State.orFromRm_mem_of_pastTop hread hpast, State.conclude_refused]
  · obtain ⟨v, he⟩ := exec_of_mem_outImmForms hf s
    rw [he, State.outTo_of_pastTop hcheck (immediatePort_inSpace n f.1) hpast, State.conclude_refused]
  · obtain ⟨v, he⟩ := exec_of_mem_outDxForms hf s
    rw [he, State.outTo_of_pastTop hcheck hport hpast, State.conclude_refused]
  · rw [exec_of_mem_outsForms hf, State.outs_of_pastTop hready hpast, State.conclude_refused]
  · rw [exec_of_mem_repOutsForms hf, State.repOuts_of_count_zero hcount, State.advance_of_pastTop hpast, State.conclude_refused]
  · rw [exec_of_mem_repOutsForms hf, State.repOuts_of_pastTop hcount hready hpast, State.conclude_refused]

/-- Settles O47: the port write is refused, and with it the instruction. -/
theorem portPastTopRefused : Obligations.PortPastTopRefused := by
  intro p s s1
  refine ⟨fun f hf hcheck hport => ?_, fun f hf s2 v hcount hcheck hread hport => ?_⟩
  · obtain ⟨v, he⟩ := exec_of_mem_outDxForms hf s
    rw [he, State.outTo_of_portPastTop hcheck hport, State.conclude_refused]
  · have hitem := State.outsItem_of_portPastTop hcheck hread hport
    rcases List.mem_append.mp hf with hf | hf
    · rw [exec_of_mem_outsForms hf, State.outs, hitem, Access.andThen_refused, State.conclude_refused]
    · rw [exec_of_mem_repOutsForms hf, State.repOuts, if_neg (hcount hf), hitem, Access.andThen_refused, State.conclude_refused]

end Sys2Proof.Machine

namespace Sys2Proof.Machine

variable {s t u : State} {e : Exc} {k n : Nat}

/-! The segment check of one instruction byte (R47, R48, R54). -/

theorem OnlyMarks.mode (h : OnlyMarks s t) : t.mode = s.mode := by
  rw [h.eq_with_mem]
  exact State.mode_congr rfl rfl

theorem OnlyMarks.cs (h : OnlyMarks s t) : t.segs.cs = s.segs.cs := by rw [h.eq_with_mem]

/-- The offset of instruction byte `k`, when it is below 2^32. -/
theorem State.fetchOffset_toNat (h : s.eip.toNat + k < 2 ^ 32) : (s.eip + BitVec.ofNat 32 k).toNat = s.eip.toNat + k := by
  simp only [BitVec.toNat_add, BitVec.toNat_ofNat]
  omega

/-- The exception of a limit violation through CS. -/
def Mode.fetchExc : Mode → Exc
  | .real => .interrupt13
  | .v86 | .prot => .gp0

theorem Mode.fetchExc_atException (m : Mode) (s : State) : s.atException m.fetchExc = s := by cases m <;> rfl

theorem State.limitExc_cs (s : State) : s.limitExc .cs = s.mode.fetchExc := by
  unfold State.limitExc
  cases s.mode <;> rfl

/-- Outside protected mode an instruction byte passes up to offset FFFFh (R47). -/
theorem State.segCheck_fetch (hmode : s.mode ≠ .prot) (off : Dword) :
    s.segCheck .cs off 1 .fetch = if 0xFFFF < off.toNat then .error s.mode.fetchExc else .ok (s.segs.cs.base + off) := by
  have hreal : s.segCheck .cs off 1 .fetch = s.segCheckReal .cs off 1 := by
    unfold State.segCheck
    split
    · exact absurd ‹_› hmode
    · rfl
    · rfl
  rw [hreal, State.segCheckReal, Nat.add_sub_cancel, State.limitExc_cs]
  rfl

/-- In protected mode an instruction byte through an invalid CS, or above the limit of an expand-up CS, raises #GP(0) (R48, R54). -/
theorem State.segCheck_fetch_prot {off : Dword} (hmode : s.mode = .prot)
    (h : s.segs.cs.valid = false ∨ (s.segs.cs.expandDown = false ∧ s.segs.cs.limit.toNat < off.toNat)) :
    s.segCheck .cs off 1 .fetch = .error .gp0 := by
  have hprot : s.segCheck .cs off 1 .fetch = s.segCheckProt .cs off 1 .fetch := by rw [State.segCheck, hmode]
  rw [hprot]
  rcases h with hinvalid | ⟨hup, hlimit⟩
  · simp [State.segCheckProt, Segments.get, hinvalid]
  · simp [State.segCheckProt, Segments.get, Segment.violates, hup, hlimit]

/-- Instruction byte `k` lies beyond what CS admits: above FFFFh outside protected mode, through an invalid CS or above the limit of an
expand-up CS in it. -/
def State.FetchBeyond (s : State) (k : Nat) : Prop :=
  s.eip.toNat + k < 2 ^ 32 ∧
    if s.mode = .prot then
      s.segs.cs.valid = false ∨ (s.segs.cs.expandDown = false ∧ s.segs.cs.limit.toNat < s.eip.toNat + k)
    else 0xFFFF < s.eip.toNat + k

theorem State.fetchByte_of_beyond (h : s.FetchBeyond k) : s.fetchByte k = .raised s.mode.fetchExc := by
  obtain ⟨htop, hbeyond⟩ := h
  have hoff := State.fetchOffset_toNat htop
  have hseg : s.segCheck .cs (s.eip + BitVec.ofNat 32 k) 1 .fetch = .error s.mode.fetchExc := by
    by_cases hmode : s.mode = .prot
    · rw [if_pos hmode, ← hoff] at hbeyond
      rw [State.segCheck_fetch_prot hmode hbeyond, hmode]
      rfl
    · rw [if_neg hmode, ← hoff] at hbeyond
      rw [State.segCheck_fetch hmode, if_pos hbeyond]
  rw [State.fetchByte, if_neg (by omega), hseg, Access.check_error, Access.andThen_raised]

theorem State.FetchBeyond.of_onlyMarks (hm : OnlyMarks s t) (h : s.FetchBeyond k) : t.FetchBeyond k := by
  rwa [State.FetchBeyond, hm.eip, hm.mode, hm.cs]

/-- Outside protected mode a byte that was fetched lies at an offset up to FFFFh. -/
theorem State.fetchByte_ok_le {b : Byte} (hmode : s.mode ≠ .prot) (h : s.fetchByte k = .ok b t) : s.eip.toNat + k ≤ 0xFFFF := by
  by_contra hgt
  by_cases htop : s.eip.toNat + k < 2 ^ 32
  · have hbeyond : s.FetchBeyond k := ⟨htop, by rw [if_neg hmode]; omega⟩
    exact absurd ((State.fetchByte_of_beyond hbeyond).symm.trans h) (by simp)
  · have hrefused : s.fetchByte k = .refused .eipPastTop := if_pos (by omega)
    exact absurd (hrefused.symm.trans h) (by simp)

/-- Outside protected mode bytes that were fetched end at an offset up to 10000h, so the next byte's offset is below 2^32. -/
theorem State.fetchBytes_ok_lt {bs : List Byte} (hmode : s.mode ≠ .prot) (hk : s.eip.toNat + k < 2 ^ 32)
    (h : s.fetchBytes k n = .ok bs t) : s.eip.toNat + k + n < 2 ^ 32 := by
  induction n generalizing s k bs with
  | zero => exact hk
  | succ n ih =>
    obtain ⟨b, u, hbyte, hrest⟩ := Access.andThen_eq_ok.mp h
    obtain ⟨bs', t', hbytes, hdone⟩ := Access.andThen_eq_ok.mp hrest
    injection hdone with _ ht
    subst ht
    have hle := State.fetchByte_ok_le hmode hbyte
    have hmarks := (State.fetchByte_marks s k b u hbyte).1
    have := ih (s := u) (k := k + 1) (by rwa [hmarks.mode]) (by rw [hmarks.eip]; omega) hbytes
    rw [hmarks.eip] at this
    omega

/-! The step whose fetch raises an exception (R54, R178, R181). -/

/-- Fetching meets the exception of the byte after those fetched, if the decoder asks for it and the fuel reaches it. -/
theorem State.fetchFrom_of_raised {got bs : List Byte} {fuel : Nat} (hfetch : s.fetchBytes got.length bs.length = .ok bs t)
    (hmore : decode s.defaultSize (got ++ bs) = .more) (hfuel : bs.length < fuel)
    (hraised : t.fetchByte (got.length + bs.length) = .raised e) : s.fetchFrom got fuel = .raised e := by
  induction bs generalizing s got fuel with
  | nil =>
    obtain ⟨fuel, rfl⟩ := Nat.exists_eq_add_one.mpr hfuel
    obtain rfl : s = t := by simpa [State.fetchBytes] using hfetch
    rw [List.append_nil] at hmore
    rw [List.length_nil, Nat.add_zero] at hraised
    simp only [State.fetchFrom, hmore, hraised, Access.andThen_raised]
  | cons b bs ih =>
    obtain ⟨fuel, rfl⟩ := Nat.exists_eq_add_one.mpr (Nat.zero_lt_of_lt hfuel)
    obtain ⟨b', s', hbyte, hrest⟩ := Access.andThen_eq_ok.mp hfetch
    obtain ⟨bs', t', hbytes, hcons⟩ := Access.andThen_eq_ok.mp hrest
    obtain ⟨⟨rfl, rfl⟩, rfl⟩ : (b' = b ∧ bs' = bs) ∧ t' = t := by simpa using hcons
    have hsize : s'.defaultSize = s.defaultSize := (State.fetchByte_marks s _ _ _ hbyte).1.defaultSize
    have hgot : decode s.defaultSize got = .more := by simpa using decode_more_take hmore got.length
    simp only [State.fetchFrom, hgot, hbyte, Access.andThen_ok]
    exact ih (by simpa using hbytes) (by simpa [hsize] using hmore) (by simpa using hfuel)
      (by simpa [Nat.add_assoc, Nat.add_comm 1] using hraised)

theorem State.takeException_terminal (hd : s.launch.deliver = .terminal) (e : Exc) :
    s.takeException e = .fault (.exception e (s.atException e)) := by
  unfold State.takeException
  rw [hd]

theorem step_of_fetch_raised (hd : s.launch.deliver = .terminal) (hl : s.launchRefusal = none) (h : s.fetch = .raised e) :
    step s = .fault (.exception e (s.atException e)) := by
  simp only [step, hl, h, State.takeException_terminal hd]

/-- A step ends in the exception of the fetch of the byte after those fetched, when they are no whole instruction. -/
theorem step_of_fetchByte_raised {bs : List Byte} (hd : s.launch.deliver = .terminal) (hl : s.launchRefusal = none)
    (hfetch : s.fetchBytes 0 bs.length = .ok bs t) (hmore : decode s.defaultSize bs = .more)
    (hraised : t.fetchByte bs.length = .raised e) : step s = .fault (.exception e (s.atException e)) := by
  have hlen := decode_more_length hmore
  exact step_of_fetch_raised hd hl
    (State.fetchFrom_of_raised (got := []) hfetch hmore (by omega) (by simpa using hraised))

theorem step_of_fetchBeyond {bs : List Byte} {m : Mode} (hd : s.launch.deliver = .terminal) (hl : s.launchRefusal = none)
    (hmode : s.mode = m) (hfetch : s.fetchBytes 0 bs.length = .ok bs t) (hmore : decode s.defaultSize bs = .more)
    (hbeyond : s.FetchBeyond bs.length) : step s = .fault (.exception m.fetchExc s) := by
  have hmarks := (State.fetchBytes_marks s 0 _ bs t hfetch).1
  have hraised := State.fetchByte_of_beyond (hbeyond.of_onlyMarks hmarks)
  rw [hmarks.mode, hmode] at hraised
  rw [step_of_fetchByte_raised hd hl hfetch hmore hraised, Mode.fetchExc_atException]

/-- Outside protected mode the byte beyond is one above offset FFFFh. -/
theorem step_of_fetchAboveFFFF {bs : List Byte} {m : Mode} (hd : s.launch.deliver = .terminal) (hl : s.launchRefusal = none)
    (hmode : s.mode = m) (hm : m ≠ .prot) (hfetch : s.fetchBytes 0 bs.length = .ok bs t)
    (hmore : decode s.defaultSize bs = .more) (hgt : 0xFFFF < s.eip.toNat + bs.length) :
    step s = .fault (.exception m.fetchExc s) := by
  have hne : s.mode ≠ .prot := hmode ▸ hm
  have htop : s.eip.toNat + bs.length < 2 ^ 32 := State.fetchBytes_ok_lt (k := 0) hne s.eip.isLt hfetch
  exact step_of_fetchBeyond hd hl hmode hfetch hmore ⟨htop, by rwa [if_neg hne]⟩

theorem decode_nil (d : Size) : decode d [] = .more := rfl

/-! Fetching in real-address mode. -/

theorem State.pe_of_real (hmode : s.mode = .real) : s.pe = false := by
  by_contra hpe
  rw [State.mode, if_pos (by simpa using hpe)] at hmode
  split at hmode <;> exact absurd hmode (by decide)

theorem State.paging_of_real (hmode : s.mode = .real) : s.paging = false := by
  rw [State.paging, State.pe_of_real hmode, Bool.false_and]

theorem State.fetchByte_real (hmode : s.mode = .real) (hk : s.eip.toNat + k ≤ 0xFFFF) :
    s.fetchByte k = .ok (s.readPhys (s.segs.cs.base + (s.eip + BitVec.ofNat 32 k))) s := by
  have hoff := State.fetchOffset_toNat (s := s) (k := k) (by omega)
  have hseg := State.segCheck_fetch (s := s) (by rw [hmode]; decide) (s.eip + BitVec.ofNat 32 k)
  rw [if_neg (by omega)] at hseg
  rw [State.fetchByte, if_neg (by omega), hseg]
  simp only [Access.check_ok, Access.andThen_ok, State.pageTranslate_of_unpaged (State.paging_of_real hmode)]

/-- In real-address mode bytes up to offset FFFFh are fetched as memory holds them, changing nothing. -/
theorem State.fetchBytes_real {bs : List Byte} (hmode : s.mode = .real) (hlast : s.eip.toNat + k + bs.length ≤ 0x10000)
    (hbs : ∀ j < bs.length, bs[j]? = some (s.readPhys (s.segs.cs.base + (s.eip + BitVec.ofNat 32 (k + j))))) :
    s.fetchBytes k bs.length = .ok bs s := by
  induction bs generalizing k with
  | nil => rfl
  | cons b bs ih =>
    rw [List.length_cons] at hlast
    have hb : b = s.readPhys (s.segs.cs.base + (s.eip + BitVec.ofNat 32 k)) := by simpa using hbs 0 (by simp)
    have hrest := ih (k := k + 1) (by omega) fun j hj => by
      simpa [Nat.add_assoc, Nat.add_comm 1] using hbs (j + 1) (by simpa using hj)
    simp only [List.length_cons, State.fetchBytes, State.fetchByte_real (k := k) hmode (by omega), hrest, Access.andThen_ok, ← hb]

/-- Settles O57: every clause is a byte beyond what CS admits, or another exception, after bytes, maybe none, that are no whole
instruction. -/
theorem fetchBeyondLimitFaults : Obligations.FetchBeyondLimitFaults := by
  intro s hd hl
  have hfirst : s.fetchBytes 0 ([] : List Byte).length = .ok [] s := rfl
  refine ⟨fun hmode hgt => ?_, fun hmode hgt => ?_, fun hmode hcs => ?_, fun bs s1 hfetch hmore => ⟨fun hmode hgt => ?_,
    fun hmode hgt => ?_, fun hmode hup hgt htop => ?_, fun e => step_of_fetchByte_raised hd hl hfetch hmore⟩,
    fun bs hmode hlast hmore hbs => ?_⟩
  · exact step_of_fetchAboveFFFF hd hl hmode (by decide) hfirst (decode_nil _) hgt
  · exact step_of_fetchAboveFFFF hd hl hmode (by decide) hfirst (decode_nil _) hgt
  · exact step_of_fetchBeyond hd hl hmode hfirst (decode_nil _) ⟨s.eip.isLt, by rwa [if_pos hmode]⟩
  · exact step_of_fetchAboveFFFF hd hl hmode (by decide) hfetch hmore hgt
  · exact step_of_fetchAboveFFFF hd hl hmode (by decide) hfetch hmore hgt
  · exact step_of_fetchBeyond hd hl hmode hfetch hmore ⟨htop, by rw [if_pos hmode]; exact .inr ⟨hup, hgt⟩⟩
  · have hsize : s.defaultSize = .s16 := by rw [State.defaultSize, hmode]
    have hfetch := State.fetchBytes_real (k := 0) (bs := bs) hmode (by omega) (by simpa using hbs)
    exact step_of_fetchAboveFFFF hd hl hmode (by decide) hfetch (hsize ▸ hmore) (by omega)

end Sys2Proof.Machine

/-! PROOFS. Memory (20_memory.md): the segment check (R46 to R48), values as bytes (R40), page translation (R49, R50), the opening of
operands (R51 to R53), the stores refused (R208, D18), and OR and OUTS with a memory operand (R106, R155). -/

namespace Sys2Proof

/-! Widths (R6). -/

theorem Width.bytes_le (w : Width) : w.bytes ≤ 4 := by cases w <;> decide

theorem Width.bits_eq (w : Width) : w.bits = 8 * w.bytes := by cases w <;> rfl

end Sys2Proof

namespace Sys2Proof.Machine

variable {s : State} {seg : SegReg} {off : Dword} {w : Width} {kind : AccessKind}

/-! The segment check (R46 to R48). -/

theorem State.segCheck_of_ne_prot (hmode : s.mode ≠ .prot) (n : Nat) : s.segCheck seg off n kind = s.segCheckReal seg off n := by
  unfold State.segCheck
  cases hm : s.mode with
  | prot => exact absurd hm hmode
  | real | v86 => rfl

theorem State.segCheck_of_prot (hmode : s.mode = .prot) (n : Nat) : s.segCheck seg off n kind = s.segCheckProt seg off n kind := by
  rw [State.segCheck, hmode]

theorem State.segCheckReal_of_le (h : off.toNat + w.bytes ≤ 65536) :
    s.segCheckReal seg off w.bytes = .ok ((s.segs.get seg).base + off) := if_neg (by omega)

theorem State.segCheckReal_of_lt (h : 65536 < off.toNat + w.bytes) : s.segCheckReal seg off w.bytes = .error (s.limitExc seg) :=
  if_pos (by omega)

theorem State.limitExc_of_ne_prot (hmode : s.mode ≠ .prot) (h : s.launch.realSsVector = .v13 ∨ seg ≠ .ss) :
    s.limitExc seg = if s.mode = .real then .interrupt13 else .gp0 := by
  have hvia : ¬ (seg = .ss ∧ s.launch.realSsVector = .v12) := by
    rintro ⟨hss, h12⟩
    rcases h with h13 | hne
    · exact absurd (h12.symm.trans h13) (by decide)
    · exact hne hss
  cases hm : s.mode with
  | prot => exact absurd hm hmode
  | real | v86 => simpa [State.limitExc, hm] using hvia

theorem State.limitExc_ss_of_ne_prot (hmode : s.mode ≠ .prot) (h : s.launch.realSsVector = .v12) :
    s.limitExc .ss = if s.mode = .real then .interrupt12 else .ss0 := by
  cases hm : s.mode with
  | prot => exact absurd hm hmode
  | real | v86 => simp [State.limitExc, hm, h]

/-- Settles O35. -/
theorem realModeOffsetBound : Obligations.RealModeOffsetBound := by
  intro s seg off w kind hmode
  rw [State.segCheck_of_ne_prot hmode]
  refine ⟨State.segCheckReal_of_le, fun hgt hseg => ?_, fun hgt h12 hss => ?_⟩
  · rw [State.segCheckReal_of_lt hgt, State.limitExc_of_ne_prot hmode hseg]
  · rw [State.segCheckReal_of_lt hgt, hss, State.limitExc_ss_of_ne_prot hmode h12]

/-- The tests of R48 before the limit: the selector is not null and the segment gives the right the access needs. -/
def Segment.Permits (g : Segment) (kind : AccessKind) : Prop :=
  g.valid = true ∧ (kind = .write → g.writable = true) ∧ (kind = .read → g.readable = true)

/-- The bytes lie inside the limit, of an expand-up or an expand-down segment (R48). -/
def Segment.Contains (g : Segment) (off : Dword) (n : Nat) : Prop :=
  (g.expandDown = false → off.toNat + n ≤ g.limit.toNat + 1) ∧
    (g.expandDown = true → g.limit.toNat < off.toNat ∧ off.toNat + n ≤ if g.big then 2 ^ 32 else 2 ^ 16)

theorem Segment.violates_eq_false_iff (g : Segment) (off : Dword) (w : Width) :
    g.violates off w.bytes = false ↔ g.Contains off w.bytes := by
  cases hdown : g.expandDown with
  | false =>
    simp [Segment.violates, Segment.Contains, hdown]
  | true =>
    cases hbig : g.big <;> simp [Segment.violates, Segment.Contains, hdown, hbig]

theorem State.segCheckProt_of_permits {n : Nat} (h : (s.segs.get seg).Permits kind) :
    s.segCheckProt seg off n kind =
      if (s.segs.get seg).violates off n then .error (if seg = .ss then .ss0 else .gp0)
      else .ok ((s.segs.get seg).base + off) := by
  obtain ⟨hvalid, hwrite, hread⟩ := h
  cases kind <;> simp_all [State.segCheckProt]

theorem State.segCheckProt_of_not_permits {n : Nat} (h : ¬ (s.segs.get seg).Permits kind) :
    s.segCheckProt seg off n kind = .error .gp0 := by
  cases kind <;> simp_all [State.segCheckProt, Segment.Permits]

theorem State.segCheckProt_of_contains (hp : (s.segs.get seg).Permits kind) (hc : (s.segs.get seg).Contains off w.bytes) :
    s.segCheckProt seg off w.bytes kind = .ok ((s.segs.get seg).base + off) := by
  rw [State.segCheckProt_of_permits hp, (Segment.violates_eq_false_iff ..).mpr hc]
  rfl

theorem State.segCheckProt_of_not_contains (hp : (s.segs.get seg).Permits kind) (hc : ¬ (s.segs.get seg).Contains off w.bytes) :
    s.segCheckProt seg off w.bytes kind = .error (if seg = .ss then .ss0 else .gp0) := by
  rw [State.segCheckProt_of_permits hp, if_pos]
  simpa using mt (Segment.violates_eq_false_iff ..).mp hc

theorem State.segCheckProt_eq_ok_iff {lin : Dword} :
    s.segCheckProt seg off w.bytes kind = .ok lin ↔
      ((s.segs.get seg).Permits kind ∧ (s.segs.get seg).Contains off w.bytes) ∧ lin = (s.segs.get seg).base + off := by
  by_cases hp : (s.segs.get seg).Permits kind
  · by_cases hc : (s.segs.get seg).Contains off w.bytes
    · simp [State.segCheckProt_of_contains hp hc, hp, hc, eq_comm]
    · simp [State.segCheckProt_of_not_contains hp hc, hc]
  · simp [State.segCheckProt_of_not_permits hp, hp]

/-- What a failing check raises: #GP(0), or #SS(0) for the limit alone, through SS. -/
theorem State.segCheckProt_eq_error {e : Exc} (h : s.segCheckProt seg off w.bytes kind = .error e) :
    e = .gp0 ∨ (e = .ss0 ∧ seg = .ss ∧ (s.segs.get seg).Permits kind) := by
  by_cases hp : (s.segs.get seg).Permits kind
  · by_cases hc : (s.segs.get seg).Contains off w.bytes
    · rw [State.segCheckProt_of_contains hp hc] at h
      exact absurd h (by simp)
    · rw [State.segCheckProt_of_not_contains hp hc] at h
      injection h with h
      by_cases hss : seg = .ss
      · exact .inr ⟨by rw [← h, if_pos hss], hss, hp⟩
      · exact .inl (by rw [← h, if_neg hss])
  · rw [State.segCheckProt_of_not_permits hp] at h
    injection h with h
    exact .inl h.symm

/-- Settles O36: the rights are tested before the limit, and only the limit knows SS. -/
theorem protectedSegmentCheck : Obligations.ProtectedSegmentCheck := by
  intro s seg off w kind hmode
  rw [State.segCheck_of_prot hmode]
  refine ⟨?_, fun lin h => (State.segCheckProt_eq_ok_iff.mp h).2, fun e => State.segCheckProt_eq_error,
    fun hvalid => State.segCheckProt_of_not_permits fun hp => ?_,
    fun _ hkind hread => State.segCheckProt_of_not_permits fun hp => ?_,
    fun _ hkind hwrite => State.segCheckProt_of_not_permits fun hp => ?_,
    fun hvalid hwrite hread hnone => State.segCheckProt_of_not_contains ⟨hvalid, hwrite, hread⟩ fun hc => ?_⟩
  · simp only [State.segCheckProt_eq_ok_iff, exists_and_left, exists_eq, and_true]
    exact ⟨fun ⟨⟨hvalid, hwrite, hread⟩, hup, hdown⟩ => ⟨hvalid, hwrite, hread, hup, hdown⟩,
      fun ⟨hvalid, hwrite, hread, hup, hdown⟩ => ⟨⟨hvalid, hwrite, hread⟩, hup, hdown⟩⟩
  · exact absurd (hp.1.symm.trans hvalid) (by decide)
  · exact absurd ((hp.2.2 hkind).symm.trans hread) (by decide)
  · exact absurd ((hp.2.1 hkind).symm.trans hwrite) (by decide)
  · exact hnone ⟨_, State.segCheckProt_of_contains ⟨hvalid, hwrite, hread⟩ hc⟩

end Sys2Proof.Machine

namespace Sys2Proof.Machine

variable {s t : State} {w : Width} {n : Nat}

/-! Consecutive addresses. -/

@[simp] theorem addrRange_length (a : Dword) (n : Nat) : (addrRange a n).length = n := by simp [addrRange]

@[simp] theorem addrRange_getElem (a : Dword) {i : Nat} (h : i < (addrRange a n).length) :
    (addrRange a n)[i] = a + BitVec.ofNat 32 i := by simp [addrRange]

theorem addrRange_succ (a : Dword) (n : Nat) : addrRange a (n + 1) = a :: addrRange (a + 1) n := by
  have hshift (i : Nat) : a + BitVec.ofNat 32 (i + 1) = a + 1 + BitVec.ofNat 32 i := by
    rw [Nat.add_comm, BitVec.ofNat_add, ← BitVec.add_assoc]
    rfl
  rw [addrRange, List.range_succ_eq_map, List.map_cons, List.map_map]
  exact congrArg₂ List.cons (BitVec.add_zero a) (List.map_congr_left fun i _ => hshift i)

/-- Up to 4096 consecutive addresses differ in their low 12 bits. -/
theorem addrRange_map_mod_nodup (a : Dword) (hn : n ≤ 4096) : ((addrRange a n).map fun x => x.toNat % 4096).Nodup := by
  rw [addrRange, List.map_map]
  refine (List.nodup_range).map_on fun i hi j hj h => ?_
  have hi' := List.mem_range.mp hi
  have hj' := List.mem_range.mp hj
  simp only [Function.comp_apply, BitVec.toNat_add, BitVec.toNat_ofNat] at h
  omega

theorem addrRange_nodup (a : Dword) (hn : n ≤ 4096) : (addrRange a n).Nodup := (addrRange_map_mod_nodup a hn).of_map _

/-! Values as bytes, least significant first (R40). -/

@[simp] theorem leBytes_length {k : Nat} (v : BitVec k) (n : Nat) : (leBytes v n).length = n := by simp [leBytes]

theorem leBytes_succ {k : Nat} (v : BitVec k) (n : Nat) : leBytes v (n + 1) = v.extractLsb' 0 8 :: leBytes (v >>> 8) n := by
  have hshift (i : Nat) : v.extractLsb' (8 * (i + 1)) 8 = (v >>> 8).extractLsb' (8 * i) 8 := by
    apply BitVec.eq_of_getLsbD_eq
    intro j hj
    simp only [BitVec.getLsbD_extractLsb', BitVec.getLsbD_ushiftRight]
    congr 2
    omega
  simp [leBytes, List.range_succ_eq_map, Function.comp_def, hshift]

/-- The bytes of a value stand for its low part. -/
theorem leNat_leBytes {k : Nat} (v : BitVec k) (n : Nat) : leNat (leBytes v n) = v.toNat % 2 ^ (8 * n) := by
  induction n generalizing v with
  | zero => simp [leBytes, leNat, Nat.mod_one]
  | succ n ih =>
    rw [leBytes_succ, leNat, ih, BitVec.extractLsb'_toNat, BitVec.toNat_ushiftRight, Nat.shiftRight_zero, Nat.shiftRight_eq_div_pow,
      Nat.mul_succ, Nat.add_comm (8 * n) 8, Nat.pow_add, Nat.mod_mul]

theorem ofNat_leNat_leBytes (v : BitVec w.bits) : BitVec.ofNat w.bits (leNat (leBytes v w.bytes)) = v := by
  rw [leNat_leBytes, ← w.bits_eq, Nat.mod_eq_of_lt v.isLt, BitVec.ofNat_toNat, BitVec.setWidth_eq]

/-! Reads after stores (R40, R51, R52). -/

theorem State.readPhys_writePhys_same (s : State) (pa : Dword) (b : Byte) : (s.writePhys pa b).readPhys pa = b :=
  Memory.read_write_same ..

/-- A store changes no byte but those at its addresses. -/
theorem State.writeAt_sameMemoryBut (s : State) (pas : List Dword) (bs : List Byte) : SameMemoryBut pas s (s.writeAt pas bs) := by
  induction pas generalizing s bs with
  | nil => exact fun _ _ => rfl
  | cons pa pas ih =>
    cases bs with
    | nil => exact fun _ _ => rfl
    | cons b bs =>
      intro a ha
      rw [List.forall_mem_cons] at ha
      calc Memory.read (s.writeAt (pa :: pas) (b :: bs)).mem a
          = Memory.read (s.writePhys pa b).mem a := ih (s.writePhys pa b) bs a ha.2
        _ = Memory.read s.mem a := Memory.read_write_other _ _ (Ne.symm ha.1)

/-- Bytes stored at distinct addresses are read back. -/
theorem State.map_readPhys_writeAt {pas : List Dword} {bs : List Byte} (hnodup : pas.Nodup) (hlen : pas.length = bs.length) :
    pas.map (s.writeAt pas bs).readPhys = bs := by
  induction pas generalizing s bs with
  | nil => exact (List.length_eq_zero_iff.mp hlen.symm).symm
  | cons pa pas ih =>
    obtain ⟨b, bs, rfl⟩ := List.exists_cons_of_length_eq_add_one hlen.symm
    obtain ⟨hnotin, hnodup⟩ := List.nodup_cons.mp hnodup
    have hfirst : ((s.writePhys pa b).writeAt pas bs).readPhys pa = b := by
      refine (State.writeAt_sameMemoryBut _ _ _ _ fun q hq heq => ?_).trans (State.readPhys_writePhys_same s pa b)
      exact hnotin (BitVec.eq_of_toNat_eq heq ▸ hq)
    rw [List.map_cons, State.writeAt, hfirst, ih hnodup (by simpa using hlen)]

/-- A value stored at distinct addresses is read back. -/
theorem State.readAt_writeAt_leBytes {pas : List Dword} (hnodup : pas.Nodup) (hlen : pas.length = w.bytes) (v : BitVec w.bits) :
    (s.writeAt pas (leBytes v w.bytes)).readAt w pas = v := by
  rw [State.readAt, State.map_readPhys_writeAt hnodup (by rw [hlen, leBytes_length]), ofNat_leNat_leBytes]

/-- Each byte of a stored value is at its own address. -/
theorem State.readPhys_writeAt_addrRange {k i : Nat} (a : Dword) (v : BitVec k) (hn : n ≤ 4096) (hi : i < n) :
    (s.writeAt (addrRange a n) (leBytes v n)).readPhys (a + BitVec.ofNat 32 i) = v.extractLsb' (8 * i) 8 := by
  have hmap := State.map_readPhys_writeAt (s := s) (bs := leBytes v n) (addrRange_nodup a hn) (by simp)
  have hget := congrArg (·[i]?) hmap
  simpa [addrRange, leBytes, hi] using hget

theorem State.readAt_byte (s : State) (a : Dword) : s.readAt .byte [a] = s.readPhys a := by
  simp [State.readAt, leNat]

/-- Settles O34. -/
theorem storedBytesAreLittleEndian : Obligations.StoredBytesAreLittleEndian := by
  intro s a v h
  have hbyte {k n : Nat} (x : BitVec k) (hn : n ≤ 4096) (i : Nat) (hi : i < n) :=
    State.readPhys_writeAt_addrRange (s := s) a x hn hi
  refine ⟨hbyte v (by decide), ?_, ?_, hbyte h (by decide), ?_, fun b => ?_⟩
  · exact State.readAt_writeAt_leBytes (w := .dword) (addrRange_nodup a (by decide)) (addrRange_length a 4) v
  · rw [State.readAt_byte]
    simpa using hbyte v (by decide : 4 ≤ 4096) 0 (by decide)
  · exact State.readAt_writeAt_leBytes (w := .word) (addrRange_nodup a (by decide)) (addrRange_length a 2) h
  · rw [← State.readAt_byte]
    exact State.readAt_writeAt_leBytes (w := .byte) (List.nodup_singleton a) rfl b

end Sys2Proof.Machine

namespace Sys2Proof.Machine

variable {s t u : State} {lin : Dword} {kind : AccessKind} {user : Bool} {n : Nat}

/-! Page frames and offsets as numbers (R50). -/

theorem and_frame_toNat (x : Dword) : (x &&& 0xFFFFF000).toNat = x.toNat / 4096 * 4096 := by
  have hmask : ∀ i < 32, (0xFFFFF000 : Dword).getLsbD i = decide (12 ≤ i) := by decide
  have hshift : x &&& (0xFFFFF000 : Dword) = (x >>> 12) <<< 12 := by
    apply BitVec.eq_of_getLsbD_eq
    intro i hi
    rw [BitVec.getLsbD_and, hmask i hi, BitVec.getLsbD_shiftLeft, BitVec.getLsbD_ushiftRight]
    by_cases h : 12 ≤ i
    · simp [h, hi, Nat.not_lt.mpr h]
    · simp [h, Nat.lt_of_not_le h]
  rw [hshift, BitVec.toNat_shiftLeft, BitVec.toNat_ushiftRight, Nat.shiftLeft_eq, Nat.shiftRight_eq_div_pow]
  omega

theorem and_0xFFF_toNat (x : Dword) : (x &&& 0xFFF).toNat = x.toNat % 4096 := Nat.and_two_pow_sub_one_eq_mod x.toNat 12

theorem frame_or_offset_toNat (x y : Dword) :
    ((x &&& 0xFFFFF000) ||| (y &&& 0xFFF)).toNat = x.toNat / 4096 * 4096 + y.toNat % 4096 := by
  have hlt : y.toNat % 4096 < 2 ^ 12 := Nat.mod_lt _ (by decide)
  have hadd := Nat.shiftLeft_add_eq_or_of_lt hlt (x.toNat / 4096)
  rw [Nat.shiftLeft_eq] at hadd
  rw [BitVec.toNat_or, and_frame_toNat, and_0xFFF_toNat, ← hadd]

/-! The walk in the words of the statements (R50). -/

theorem State.pdeAddr_eq (s : State) (lin : Dword) :
    s.pdeAddr lin = (s.cr3 &&& 0xFFFFF000) + BitVec.ofNat 32 (4 * (lin.toNat / 2 ^ 22)) := by
  have hindex : (lin >>> 22) <<< 2 = BitVec.ofNat 32 (4 * (lin.toNat / 2 ^ 22)) := by
    apply BitVec.eq_of_toNat_eq
    rw [BitVec.toNat_shiftLeft, BitVec.toNat_ushiftRight, BitVec.toNat_ofNat, Nat.shiftLeft_eq, Nat.shiftRight_eq_div_pow]
    omega
  rw [State.pdeAddr, hindex]
  rfl

theorem pteAddr_eq (pde lin : Dword) :
    pteAddr pde lin = (pde &&& 0xFFFFF000) + BitVec.ofNat 32 (4 * (lin.toNat / 2 ^ 12 % 1024)) := by
  have hindex : ((lin >>> 12) &&& 0x3FF) <<< 2 = BitVec.ofNat 32 (4 * (lin.toNat / 2 ^ 12 % 1024)) := by
    apply BitVec.eq_of_toNat_eq
    have hand : ((lin >>> 12) &&& 0x3FF).toNat = lin.toNat / 2 ^ 12 % 1024 :=
      (Nat.and_two_pow_sub_one_eq_mod _ 10).trans (by rw [BitVec.toNat_ushiftRight, Nat.shiftRight_eq_div_pow])
    rw [BitVec.toNat_shiftLeft, hand, BitVec.toNat_ofNat, Nat.shiftLeft_eq]
    omega
  rw [pteAddr, hindex]
  rfl

theorem State.physRead32_pdeAddr (s : State) (lin : Dword) : s.physRead32 (s.pdeAddr lin) = s.pdeOf lin := by
  rw [State.pdeAddr_eq]; rfl

theorem State.pteAddr_pdeOf (s : State) (lin : Dword) : pteAddr (s.pdeOf lin) lin = s.pteAddrOf lin := pteAddr_eq _ _

theorem State.physRead32_pteAddrOf (s : State) (lin : Dword) : s.physRead32 (s.pteAddrOf lin) = s.pteOf lin := rfl

theorem State.pageDenied_eq_false_iff :
    pageDenied kind user (s.pdeOf lin) (s.pteOf lin) = false ↔ s.pageAllowed lin kind user := by
  cases user with
  | false => simp [pageDenied, State.pageAllowed]
  | true => cases kind <;> simp [pageDenied, State.pageAllowed]

theorem State.mappedTo_toNat (s : State) (lin : Dword) :
    (s.mappedTo lin).toNat = (s.pteOf lin).toNat / 4096 * 4096 + lin.toNat % 4096 := frame_or_offset_toNat _ _

/-! `PageTranslate` with paging on (R50). -/

/-- The state the translation of a mapped page leaves: A set in both entries, D in the page-table entry for a write. -/
def State.marked (s : State) (lin : Dword) (kind : AccessKind) : State :=
  (s.markPhys (s.pdeAddr lin) 0x20).markPhys (s.pteAddrOf lin) (if kind = .write then 0x60 else 0x20)

/-- The walk, once both entries are named. -/
theorem State.pageTranslate_of_paged (hp : s.paging = true) (lin : Dword) (kind : AccessKind) (user : Bool) :
    s.pageTranslate lin kind user =
      if !(s.pdeOf lin).getLsbD 0 then .raised (s.pageFault false kind user lin)
      else if !(s.pteOf lin).getLsbD 0 then .raised (s.pageFault false kind user lin)
      else if pageDenied kind user (s.pdeOf lin) (s.pteOf lin) then .raised (s.pageFault true kind user lin)
      else .ok (s.mappedTo lin) (s.marked lin kind) := by
  simp only [State.pageTranslate, State.physRead32_pdeAddr, State.pteAddr_pdeOf, State.physRead32_pteAddrOf, hp, Bool.not_true,
    Bool.false_eq_true, if_false]
  rfl

theorem State.pageTranslate_of_absent (hp : s.paging = true) (h : ¬ s.pagePresent lin) :
    s.pageTranslate lin kind user = .raised (s.pageFault false kind user lin) := by
  rw [State.pageTranslate_of_paged hp]
  cases hpde : (s.pdeOf lin).getLsbD 0 with
  | false => rfl
  | true =>
    cases hpte : (s.pteOf lin).getLsbD 0 with
    | false => rfl
    | true => exact absurd ⟨hpde, hpte⟩ h

theorem State.pageTranslate_of_denied (hp : s.paging = true) (h : s.pagePresent lin) (ha : ¬ s.pageAllowed lin kind user) :
    s.pageTranslate lin kind user = .raised (s.pageFault true kind user lin) := by
  have hdenied : pageDenied kind user (s.pdeOf lin) (s.pteOf lin) = true := by simpa using mt State.pageDenied_eq_false_iff.mp ha
  rw [State.pageTranslate_of_paged hp, h.1, h.2, hdenied]
  rfl

theorem State.pageTranslate_of_mapped (hp : s.paging = true) (h : s.pagePresent lin) (ha : s.pageAllowed lin kind user) :
    s.pageTranslate lin kind user = .ok (s.mappedTo lin) (s.marked lin kind) := by
  rw [State.pageTranslate_of_paged hp, h.1, h.2, State.pageDenied_eq_false_iff.mpr ha]
  rfl

/-- The three stated bits of a page fault's code. -/
theorem State.pageFault_eq (s : State) (present : Bool) (kind : AccessKind) (user : Bool) (lin : Dword) :
    ∃ code : Half, s.pageFault present kind user lin = .pf code lin ∧
      code.getLsbD 0 = present ∧ code.getLsbD 1 = decide (kind = .write) ∧ code.getLsbD 2 = user := by
  refine ⟨_, rfl, ?_, ?_, ?_⟩ <;> simp only [BitVec.getLsbD_append, BitVec.getLsbD_ofBool] <;> rfl

theorem Memory.read_markPhys (s : State) (pa : Dword) (bits : Byte) (a : Nat) :
    Memory.read (s.markPhys pa bits).mem a = Memory.read s.mem a ||| if a = pa.toNat then bits else 0 := by
  by_cases h : a = pa.toNat
  · rw [if_pos h, h]
    exact Memory.read_write_same ..
  · rw [if_neg h]
    exact (Memory.read_write_other _ _ h).trans BitVec.or_zero.symm

/-- Settles O37. -/
theorem pageTranslateWalks : Obligations.PageTranslateWalks := by
  intro s lin kind user
  refine ⟨fun hp => State.pageTranslate_of_unpaged hp lin kind user, fun hp habsent => ?_, fun hp hpresent hdenied => ?_,
    fun hp hpresent hallowed => ⟨s.marked lin kind, State.pageTranslate_of_mapped hp hpresent hallowed, rfl, fun a => ?_⟩⟩
  · rw [State.pageTranslate_of_absent hp habsent]
    obtain ⟨code, hcode, hbits⟩ := s.pageFault_eq false kind user lin
    exact ⟨code, congrArg _ hcode, hbits⟩
  · rw [State.pageTranslate_of_denied hp hpresent hdenied]
    obtain ⟨code, hcode, hbits⟩ := s.pageFault_eq true kind user lin
    exact ⟨code, congrArg _ hcode, hbits⟩
  · rw [State.marked, Memory.read_markPhys, Memory.read_markPhys, State.pdeAddr_eq]

/-! Opening an operand (R51 to R53). -/

/-- A translated address keeps the low 12 bits (R49, R50). -/
theorem State.pageTranslate_mod {pa : Dword} (h : s.pageTranslate lin kind user = .ok pa t) :
    pa.toNat % 4096 = lin.toNat % 4096 := by
  rcases State.pageTranslate_eq_ok h with ⟨-, rfl, -⟩ | ⟨-, -, -, -, rfl, -⟩
  · rfl
  · rw [frame_or_offset_toNat]
    omega

theorem State.translateAll_map_mod {pas : List Dword} (h : s.translateAll lin kind user n = .ok pas t) :
    pas.map (fun x => x.toNat % 4096) = (addrRange lin n).map fun x => x.toNat % 4096 := by
  induction n generalizing s lin pas with
  | zero =>
    injection h with h
    rw [← h]; rfl
  | succ n ih =>
    obtain ⟨pa, s1, hpa, hrest⟩ := Access.andThen_eq_ok.mp h
    obtain ⟨pas', s2, hpas, hcons⟩ := Access.andThen_eq_ok.mp hrest
    injection hcons with hcons ht
    subst ht
    rw [← hcons, addrRange_succ, List.map_cons, List.map_cons, State.pageTranslate_mod hpa, ih hpas]

theorem State.translateAll_length {pas : List Dword} (h : s.translateAll lin kind user n = .ok pas t) : pas.length = n := by
  simpa using congrArg List.length (State.translateAll_map_mod h)

theorem State.translateAll_of_unpaged (hp : s.paging = false) (lin : Dword) (kind : AccessKind) (user : Bool) (n : Nat) :
    s.translateAll lin kind user n = .ok (addrRange lin n) s := by
  induction n generalizing lin with
  | zero => rfl
  | succ n ih => simp only [State.translateAll, State.pageTranslate_of_unpaged hp, ih, Access.andThen_ok, addrRange_succ]

theorem State.openOperand_eq_ok {seg : SegReg} {off : Dword} {w : Width} {pas : List Dword}
    (h : s.openOperand seg off w kind = .ok pas t) :
    ∃ lin, s.segCheck seg off w.bytes kind = .ok lin ∧ s.translateAll lin kind s.user w.bytes = .ok pas t := by
  obtain ⟨lin, s1, hcheck, htranslate⟩ := Access.andThen_eq_ok.mp h
  obtain ⟨hseg, rfl⟩ := Access.check_eq_ok.mp hcheck
  exact ⟨lin, hseg, htranslate⟩

theorem State.openOperand_of_segCheck {seg : SegReg} {off : Dword} {w : Width} (h : s.segCheck seg off w.bytes kind = .ok lin) :
    s.openOperand seg off w kind = s.translateAll lin kind s.user w.bytes := by
  rw [State.openOperand, h, Access.check_ok, Access.andThen_ok]

theorem State.openOperand_length {seg : SegReg} {off : Dword} {w : Width} {pas : List Dword}
    (h : s.openOperand seg off w kind = .ok pas t) : pas.length = w.bytes := by
  obtain ⟨lin, -, htranslate⟩ := State.openOperand_eq_ok h
  exact State.translateAll_length htranslate

theorem State.openOperand_of_unpaged {seg : SegReg} {off : Dword} {w : Width} (hp : s.paging = false)
    (h : s.segCheck seg off w.bytes kind = .ok lin) : s.openOperand seg off w kind = .ok (addrRange lin w.bytes) s := by
  rw [State.openOperand_of_segCheck h, State.translateAll_of_unpaged hp]

/-- Settles O38. -/
theorem openingOperandOnlyMarks : Obligations.OpeningOperandOnlyMarks :=
  fun s s1 seg off w kind pas => ⟨fun h => ⟨(State.openOperand_marks s seg off w kind pas s1 h).1, State.openOperand_length h⟩,
    fun _ => State.openOperand_of_unpaged⟩

/-- The bytes of an open operand are distinct: two of its pages may share a frame, but no two of its bytes an offset in a page. -/
theorem State.openOperand_nodup {seg : SegReg} {off : Dword} {w : Width} {pas : List Dword}
    (h : s.openOperand seg off w kind = .ok pas t) : pas.Nodup := by
  obtain ⟨lin, -, htranslate⟩ := State.openOperand_eq_ok h
  have hw := w.bytes_le
  have hnodup := addrRange_map_mod_nodup lin (n := w.bytes) (by omega)
  rw [← State.translateAll_map_mod htranslate] at hnodup
  exact hnodup.of_map _

/-! Later walks after A and D bits were set (R50). -/

/-- Two entries agree but for their A and D bits. -/
def SameButMarks (x y : Dword) : Prop := ∀ i, i ≠ 5 → i ≠ 6 → x.getLsbD i = y.getLsbD i

theorem SameButMarks.frame {x y : Dword} (h : SameButMarks x y) : x &&& 0xFFFFF000 = y &&& 0xFFFFF000 := by
  apply BitVec.eq_of_getLsbD_eq
  intro i _
  rw [BitVec.getLsbD_and, BitVec.getLsbD_and]
  by_cases hi : i = 5 ∨ i = 6
  · rcases hi with rfl | rfl <;> simp
  · rw [h i (by omega) (by omega)]

/-- `t` has the CR3 of `s` and agrees with it on every bit of memory that is not the A or D bit of some entry: bit 5 or 6 of a byte at a
multiple of 4. -/
def State.MarksEntries (s t : State) : Prop :=
  t.cr3 = s.cr3 ∧
    ∀ a i : Nat, a % 4 ≠ 0 ∨ (i ≠ 5 ∧ i ≠ 6) → (Memory.read t.mem a).getLsbD i = (Memory.read s.mem a).getLsbD i

theorem State.MarksEntries.trans (h : s.MarksEntries t) (k : t.MarksEntries u) : s.MarksEntries u :=
  ⟨k.1.trans h.1, fun a i hi => (k.2 a i hi).trans (h.2 a i hi)⟩

theorem State.MarksEntries.mark {pa : Dword} {bits : Byte} (hpa : pa.toNat % 4 = 0) (hbits : bits = 0x20 ∨ bits = 0x60) :
    s.MarksEntries (s.markPhys pa bits) := by
  refine ⟨rfl, fun a i h => ?_⟩
  rw [Memory.read_markPhys, BitVec.getLsbD_or]
  by_cases ha : a = pa.toNat
  · have hi : i ≠ 5 ∧ i ≠ 6 := h.resolve_left (by omega)
    have hclear : ∀ j < 8, j ≠ 5 ∧ j ≠ 6 → bits.getLsbD j = false := by rcases hbits with rfl | rfl <;> decide
    by_cases hlt : i < 8
    · rw [if_pos ha, hclear i hlt hi, Bool.or_false]
    · rw [BitVec.getLsbD_of_ge _ _ (by omega), BitVec.getLsbD_of_ge _ _ (by omega), Bool.false_or]
  · simp [ha]

theorem entryAddr_mod_four (x : Dword) (k : Nat) : ((x &&& 0xFFFFF000) + BitVec.ofNat 32 (4 * k)).toNat % 4 = 0 := by
  rw [BitVec.toNat_add, and_frame_toNat, BitVec.toNat_ofNat]
  omega

theorem State.marked_marksEntries (s : State) (lin : Dword) (kind : AccessKind) : s.MarksEntries (s.marked lin kind) := by
  refine (State.MarksEntries.mark ?_ (.inl rfl)).trans (State.MarksEntries.mark (entryAddr_mod_four _ _) ?_)
  · rw [State.pdeAddr_eq]
    exact entryAddr_mod_four _ _
  · cases kind
    case write => exact .inr rfl
    all_goals exact .inl rfl

/-- A bit of a little-endian number is a bit of one of its bytes (R40). -/
theorem leNat_testBit (bs : List Byte) (i : Nat) : (leNat bs).testBit i = (bs.getD (i / 8) 0).getLsbD (i % 8) := by
  induction bs generalizing i with
  | nil => simp [leNat]
  | cons b bs ih =>
    rw [leNat, Nat.add_comm, Nat.testBit_two_pow_mul_add (i := 8) _ b.isLt]
    by_cases hi : i < 8
    · rw [if_pos hi, Nat.div_eq_of_lt hi, Nat.mod_eq_of_lt hi]; rfl
    · have hdiv : i / 8 = (i - 8) / 8 + 1 := by omega
      have hmod : (i - 8) % 8 = i % 8 := by omega
      rw [if_neg hi, ih, hdiv, hmod, List.getD_cons_succ]

theorem State.MarksEntries.physRead32 (h : s.MarksEntries t) {a : Dword} (ha : a.toNat % 4 = 0) :
    SameButMarks (t.physRead32 a) (s.physRead32 a) := by
  intro i h5 h6
  by_cases hi : i < 32
  · have hbyte (b : Dword) (hb : i < 8 ∨ b.toNat % 4 ≠ 0) :
        (t.readPhys b).getLsbD (i % 8) = (s.readPhys b).getLsbD (i % 8) := h.2 _ _ (by omega)
    simp only [State.physRead32, State.readAt, BitVec.getLsbD_ofNat, leNat_testBit]
    congr 1
    obtain hk | hk | hk | hk : i / 8 = 0 ∨ i / 8 = 1 ∨ i / 8 = 2 ∨ i / 8 = 3 := by omega
    all_goals rw [hk]
    · exact hbyte a (by omega)
    · exact hbyte (a + 1) (by bv_omega)
    · exact hbyte (a + 2) (by bv_omega)
    · exact hbyte (a + 3) (by bv_omega)
  · rw [BitVec.getLsbD_of_ge _ _ (by omega), BitVec.getLsbD_of_ge _ _ (by omega)]

section
variable (h : s.MarksEntries t)
include h

theorem State.MarksEntries.pdeOf (lin : Dword) : SameButMarks (t.pdeOf lin) (s.pdeOf lin) := by
  rw [State.pdeOf, State.pdeOf, h.1]
  exact h.physRead32 (entryAddr_mod_four _ _)

theorem State.MarksEntries.pteOf (lin : Dword) : SameButMarks (t.pteOf lin) (s.pteOf lin) := by
  have haddr : t.pteAddrOf lin = s.pteAddrOf lin := by rw [State.pteAddrOf, State.pteAddrOf, (h.pdeOf lin).frame]
  rw [State.pteOf, State.pteOf, haddr]
  exact h.physRead32 (entryAddr_mod_four _ _)

theorem State.MarksEntries.pagePresent (lin : Dword) : t.pagePresent lin ↔ s.pagePresent lin := by
  rw [State.pagePresent, State.pagePresent, h.pdeOf lin 0 (by decide) (by decide), h.pteOf lin 0 (by decide) (by decide)]

theorem State.MarksEntries.pageAllowed (lin : Dword) : t.pageAllowed lin kind user ↔ s.pageAllowed lin kind user := by
  rw [State.pageAllowed, State.pageAllowed, h.pdeOf lin 1 (by decide) (by decide), h.pteOf lin 1 (by decide) (by decide),
    h.pdeOf lin 2 (by decide) (by decide), h.pteOf lin 2 (by decide) (by decide)]

theorem State.MarksEntries.mappedTo (lin : Dword) : t.mappedTo lin = s.mappedTo lin := by
  rw [State.mappedTo, State.mappedTo, (h.pteOf lin).frame]

end

/-- Bytes whose pages are present and allowed before the first translation are translated to where that state maps them. -/
theorem State.translateAll_of_mapped (hp : s.paging = true)
    (h : ∀ a ∈ addrRange lin n, s.pagePresent a ∧ s.pageAllowed a kind user) :
    ∃ t, s.translateAll lin kind user n = .ok ((addrRange lin n).map s.mappedTo) t := by
  induction n generalizing s lin with
  | zero => exact ⟨s, rfl⟩
  | succ n ih =>
    rw [addrRange_succ, List.forall_mem_cons] at h
    obtain ⟨⟨hpresent, hallowed⟩, hrest⟩ := h
    have hmarks := s.marked_marksEntries lin kind
    obtain ⟨t, ht⟩ := ih (s := s.marked lin kind) (lin := lin + 1) ((State.paging_congr rfl).trans hp) fun a ha =>
      ⟨(hmarks.pagePresent a).mpr (hrest a ha).1, (hmarks.pageAllowed a).mpr (hrest a ha).2⟩
    have hmap : (addrRange (lin + 1) n).map (s.marked lin kind).mappedTo = (addrRange (lin + 1) n).map s.mappedTo :=
      List.map_congr_left fun a _ => hmarks.mappedTo a
    refine ⟨t, ?_⟩
    rw [State.translateAll, State.pageTranslate_of_mapped hp hpresent hallowed, Access.andThen_ok, ht, Access.andThen_ok, hmap,
      addrRange_succ, List.map_cons]

/-- Settles O39: the marks of one byte's walk change no later walk. -/
theorem mappedOperandOpens : Obligations.MappedOperandOpens := by
  intro s seg off lin w kind hp hseg hmapped
  obtain ⟨t, ht⟩ := State.translateAll_of_mapped hp hmapped
  have hopen := (State.openOperand_of_segCheck hseg).trans ht
  exact ⟨t, hopen, (State.openOperand_marks s seg off w kind _ t hopen).1⟩

end Sys2Proof.Machine

namespace Sys2Proof.Machine

variable {s : State} {pa : Dword}

/-! Where a store lands (R28, R50, R208, D18). -/

theorem and_frame_inj (x y : Dword) : x &&& 0xFFFFF000 = y &&& 0xFFFFF000 ↔ x.toNat / 4096 = y.toNat / 4096 := by
  rw [← BitVec.toNat_inj, and_frame_toNat, and_frame_toNat]
  omega

theorem page_or_offset_toNat {page : Dword} (hpage : page.toNat % 4096 = 0) (y : Dword) :
    (page ||| (y &&& 0xFFF)).toNat = page.toNat + y.toNat % 4096 := by
  have hframe : page &&& 0xFFFFF000 = page := by
    rw [← BitVec.toNat_inj, and_frame_toNat]
    omega
  have h := frame_or_offset_toNat page y
  rw [hframe] at h
  omega

theorem State.peekFrame_eq_some_iff {x f : Dword} :
    s.peekFrame x = some f ↔ s.pagePresent x ∧ s.pteOf x &&& 0xFFFFF000 = f := by
  simp only [State.peekFrame, State.physRead32_pdeAddr, State.pteAddr_pdeOf, State.physRead32_pteAddrOf, State.pagePresent]
  split
  · rename_i h
    rw [Bool.and_eq_true] at h
    exact ⟨fun hf => ⟨h, Option.some_inj.mp hf⟩, fun hf => congrArg some hf.2⟩
  · rename_i h
    rw [Bool.and_eq_true] at h
    exact iff_of_false (by simp) fun hf => h hf.1

/-- Linear addresses of one page have the same walk. -/
theorem State.peekFrame_congr {x y : Dword} (h : x.toNat / 4096 = y.toNat / 4096) : s.peekFrame x = s.peekFrame y := by
  have hdir : x.toNat / 2 ^ 22 = y.toNat / 2 ^ 22 := by omega
  have htable : x.toNat / 2 ^ 12 = y.toNat / 2 ^ 12 := h
  simp only [State.peekFrame, State.pdeAddr_eq, pteAddr_eq, hdir, htable]

/-- With paging an address is the image of a linear one when its frame is that of the page and the offsets in the page agree. -/
theorem State.isImage_iff_peekFrame (hp : s.paging = true) {x : Dword} :
    s.IsImage x pa ↔ s.peekFrame x = some (pa &&& 0xFFFFF000) ∧ x.toNat % 4096 = pa.toNat % 4096 := by
  have hmapped : s.mappedTo x = pa ↔ s.pteOf x &&& 0xFFFFF000 = pa &&& 0xFFFFF000 ∧ x.toNat % 4096 = pa.toNat % 4096 := by
    rw [← BitVec.toNat_inj, State.mappedTo_toNat, and_frame_inj]
    omega
  rw [State.IsImage, if_pos hp, State.peekFrame_eq_some_iff, hmapped, and_assoc]

/-- The `k`-th page from the one `lin` lies in (R50). -/
def pageFrom (lin : Dword) (k : Nat) : Dword := (lin &&& 0xFFFFF000) + BitVec.ofNat 32 (4096 * k)

theorem pageFrom_toNat (lin : Dword) (k : Nat) : (pageFrom lin k).toNat = (lin.toNat / 4096 * 4096 + 4096 * k) % 2 ^ 32 := by
  rw [pageFrom, BitVec.toNat_add, and_frame_toNat, BitVec.toNat_ofNat]
  omega

theorem State.imageOf_eq_true_iff_of_paged (hp : s.paging = true) (lin : Dword) (count : Nat) :
    s.imageOf lin count pa = true ↔ ∃ k < count / 4096 + 2,
      s.peekFrame (pageFrom lin k) = some (pa &&& 0xFFFFF000) ∧ ((pageFrom lin k ||| (pa &&& 0xFFF)) - lin).toNat < count := by
  simp only [State.imageOf, hp, Bool.not_true, Bool.false_eq_true, if_false, List.any_eq_true, List.mem_range, Bool.and_eq_true,
    decide_eq_true_eq]
  rfl

theorem add_ofNat_toNat_sub (lin x : Dword) : lin + BitVec.ofNat 32 (x - lin).toNat = x := by
  rw [BitVec.ofNat_toNat, BitVec.setWidth_eq, add_sub_cancel]

theorem toNat_add_ofNat_sub (lin : Dword) {j : Nat} (hj : j < 2 ^ 32) : (lin + BitVec.ofNat 32 j - lin).toNat = j := by
  rw [add_sub_cancel_left, BitVec.toNat_ofNat, Nat.mod_eq_of_lt hj]

theorem pageFrom_toNat_mod (lin : Dword) (k : Nat) : (pageFrom lin k).toNat % 4096 = 0 := by
  rw [pageFrom_toNat]
  omega

/-- The linear address `j` above `lin` lies in a page from `lin` on. -/
theorem pageFrom_toNat_div (lin : Dword) (j : Nat) :
    (pageFrom lin ((lin.toNat % 4096 + j) / 4096)).toNat / 4096 = (lin + BitVec.ofNat 32 j).toNat / 4096 := by
  rw [pageFrom_toNat, BitVec.toNat_add, BitVec.toNat_ofNat]
  omega

/-- The linear address found in a page of the range is the one at the offset of `pa` in it. -/
theorem State.isImage_of_peekFrame_pageFrom (hp : s.paging = true) {lin : Dword} {k : Nat}
    (h : s.peekFrame (pageFrom lin k) = some (pa &&& 0xFFFFF000)) : s.IsImage (pageFrom lin k ||| (pa &&& 0xFFF)) pa := by
  have hpage := pageFrom_toNat_mod lin k
  have hx := page_or_offset_toNat hpage pa
  rw [State.isImage_iff_peekFrame hp, ← h]
  exact ⟨State.peekFrame_congr (by omega), by omega⟩

/-- `imageOf` finds the images of the linear addresses it is asked about. -/
theorem State.imageOf_eq_true_iff {count : Nat} (hcount : count ≤ 2 ^ 32) (lin : Dword) :
    s.imageOf lin count pa = true ↔ ∃ j < count, s.IsImage (lin + BitVec.ofNat 32 j) pa := by
  by_cases hp : s.paging = true
  · rw [State.imageOf_eq_true_iff_of_paged hp]
    constructor
    · rintro ⟨k, -, hpeek, hlt⟩
      exact ⟨_, hlt, (add_ofNat_toNat_sub _ _).symm ▸ State.isImage_of_peekFrame_pageFrom hp hpeek⟩
    · rintro ⟨j, hj, himage⟩
      obtain ⟨hpeek, hoffset⟩ := (State.isImage_iff_peekFrame hp).mp himage
      have hdiv := pageFrom_toNat_div lin j
      have hx : pageFrom lin ((lin.toNat % 4096 + j) / 4096) ||| (pa &&& 0xFFF) = lin + BitVec.ofNat 32 j := by
        have hpage := pageFrom_toNat_mod lin ((lin.toNat % 4096 + j) / 4096)
        rw [← BitVec.toNat_inj, page_or_offset_toNat hpage]
        omega
      refine ⟨(lin.toNat % 4096 + j) / 4096, by omega, (State.peekFrame_congr hdiv).trans hpeek, ?_⟩
      rwa [hx, toNat_add_ofNat_sub lin (by omega)]
  · simp only [State.imageOf, State.IsImage, hp, Bool.not_false, if_true, if_false, decide_eq_true_eq, Bool.false_eq_true]
    constructor
    · exact fun hlt => ⟨_, hlt, (add_ofNat_toNat_sub lin pa).symm⟩
    · rintro ⟨j, hj, rfl⟩
      rwa [toNat_add_ofNat_sub lin (by omega)]

theorem State.inProgramAhead_eq_true_iff {len : Nat} :
    s.inProgramAhead len pa = true ↔ ∃ pr : ProgramRange, s.launch.program = some pr ∧ ∃ o : Nat, s.eip.toNat + len ≤ o ∧
      pr.start.toNat ≤ o ∧ o < pr.stop.toNat ∧ s.IsImage (s.segs.cs.base + BitVec.ofNat 32 o) pa := by
  cases hprogram : s.launch.program with
  | none => simp [State.inProgramAhead, hprogram]
  | some pr =>
    have hstop := pr.stop.isLt
    have hshift (k j : Nat) : s.segs.cs.base + BitVec.ofNat 32 k + BitVec.ofNat 32 j = s.segs.cs.base + BitVec.ofNat 32 (k + j) := by
      rw [BitVec.add_assoc, ← BitVec.ofNat_add]
    simp only [State.inProgramAhead, hprogram, Segments.get, Option.some.injEq, exists_eq_left']
    rw [State.imageOf_eq_true_iff (by omega)]
    simp only [hshift]
    constructor
    · rintro ⟨j, hj, himage⟩
      exact ⟨_, by omega, by omega, by omega, himage⟩
    · rintro ⟨o, hnext, hstart, hlt, himage⟩
      refine ⟨o - max (s.eip.toNat + len) pr.start.toNat, by omega, ?_⟩
      rwa [Nat.add_sub_cancel' (by omega)]

theorem State.inPageTables_eq_true_iff :
    s.inPageTables pa = true ↔ s.paging = true ∧ (pa.toNat / 4096 = s.cr3.toNat / 4096 ∨
      ∃ k < 1024, (s.physRead32 ((s.cr3 &&& 0xFFFFF000) + BitVec.ofNat 32 (4 * k))).getLsbD 0 = true ∧
        pa.toNat / 4096 = (s.physRead32 ((s.cr3 &&& 0xFFFFF000) + BitVec.ofNat 32 (4 * k))).toNat / 4096) := by
  simp only [State.inPageTables, Bool.and_eq_true, Bool.or_eq_true, List.any_eq_true, List.mem_range, decide_eq_true_eq]
  simp only [← and_frame_inj]

theorem State.inTss_eq_true_iff :
    s.inTss pa = true ↔ s.pe = true ∧ s.tr.selector ≠ 0 ∧
      ∃ o ≤ s.tr.limit.toNat, s.IsImage (s.tr.base + BitVec.ofNat 32 o) pa := by
  have hlimit := s.tr.limit.isLt
  simp only [State.inTss, Bool.and_eq_true, decide_eq_true_eq, and_assoc]
  rw [State.imageOf_eq_true_iff (by omega)]
  simp only [Nat.lt_succ_iff]

/-! Which stores are refused (R208, D18). -/

section
variable (s : State) (len : Nat) (pas : List Dword)

theorem State.hitsProgramAhead_iff : s.HitsProgramAhead len pas ↔ pas.any (s.inProgramAhead len) = true := by
  simp only [State.HitsProgramAhead, List.any_eq_true, State.inProgramAhead_eq_true_iff]

theorem State.hitsPageTables_iff : s.HitsPageTables pas ↔ pas.any s.inPageTables = true := by
  simp only [State.HitsPageTables, List.any_eq_true, State.inPageTables_eq_true_iff]
  exact ⟨fun ⟨hp, pa, hpa, hframe⟩ => ⟨pa, hpa, hp, hframe⟩, fun ⟨pa, hpa, hp, hframe⟩ => ⟨hp, pa, hpa, hframe⟩⟩

theorem State.hitsTss_iff : s.HitsTss pas ↔ pas.any s.inTss = true := by
  simp only [State.HitsTss, List.any_eq_true, State.inTss_eq_true_iff]
  exact ⟨fun ⟨hpe, htr, pa, hpa, himage⟩ => ⟨pa, hpa, hpe, htr, himage⟩,
    fun ⟨pa, hpa, hpe, htr, himage⟩ => ⟨hpe, htr, pa, hpa, himage⟩⟩

end

/-- Settles O26: `storeRefusal` makes the three tests in this order. -/
theorem storeRefusedExactlyAhead : Obligations.StoreRefusedExactlyAhead := by
  intro s len pas
  rw [State.hitsProgramAhead_iff, State.hitsPageTables_iff, State.hitsTss_iff, State.storeRefusal]
  cases pas.any (s.inProgramAhead len) with
  | true => simp
  | false =>
    cases pas.any s.inPageTables with
    | true => simp
    | false => cases pas.any s.inTss <;> simp

end Sys2Proof.Machine

namespace Sys2Proof.Machine

variable {s t u : State} {len : Nat} {w : Width} {p : Prefixes} {run : State → Host.Outcome State Fault Refusal}

/-! The flags of OR (R17, R102). -/

/-- Counting the positions where a test holds modulo 2 is the exclusive or of the tests. -/
theorem even_length_filter (f : Nat → Bool) (l : List Nat) :
    decide ((l.filter f).length % 2 = 0) = !l.foldr (fun j b => f j ^^ b) false := by
  induction l with
  | nil => rfl
  | cons j l ih =>
    cases hj : f j with
    | false => simpa [hj] using ih
    | true =>
      have hsucc : decide (((l.filter f).length + 1) % 2 = 0) = !decide ((l.filter f).length % 2 = 0) := by
        rw [← decide_not, decide_eq_decide]
        omega
      simp [hj, hsucc, ih]

theorem parityEven_eq_evenOnes (b : Byte) : parityEven b = evenOnes b := by
  rw [evenOnes, even_length_filter, parityEven]
  simp only [Bool.xor_assoc]
  simp [List.range_succ]

theorem Eflags.ofLogic_logicFlags {k : Nat} (f : Eflags) (r : BitVec k) (af : Bool) : LogicFlags f (f.ofLogic r af) r := by
  have hlow : r.extractLsb' 0 8 = r.setWidth 8 := by
    rw [← BitVec.toNat_inj, BitVec.extractLsb'_toNat, BitVec.toNat_setWidth, Nat.shiftRight_zero]
  refine ⟨rfl, rfl, BitVec.msb_eq_getLsbD_last r, decide_eq_true_iff, ?_, rfl, rfl, rfl, rfl, rfl, rfl, rfl⟩
  rw [hlow, ← parityEven_eq_evenOnes]
  rfl

/-! What completes an OR (R106). -/

theorem OnlyMarks.regs (h : OnlyMarks s t) : t.regs = s.regs := by rw [h.eq_with_mem]

theorem State.getReg_congr (h : t.regs = s.regs) (w : Width) (i : Reg) : t.getReg w i = s.getReg w i := by
  cases w <;> simp only [State.getReg, h]

theorem State.setReg_regs_congr (h : t.regs = s.regs) (w : Width) (i : Reg) (v : BitVec w.bits) :
    (t.setReg w i v).regs = (s.setReg w i v).regs := by
  cases w <;> simp only [State.setReg, h]

theorem State.setReg_eq_with_regs (s : State) (w : Width) (i : Reg) (v : BitVec w.bits) :
    s.setReg w i v = { s with regs := (s.setReg w i v).regs } := by cases w <;> rfl

/-- The control state is in the fixed part. -/
theorem SameControl.of_fixedPart_eq (h : t.fixedPart = s.fixedPart) : SameControl s t :=
  ⟨(congrArg State.cr0 h :), (congrArg State.cr2 h :), (congrArg State.cr3 h :), (congrArg State.cpl h :),
    (congrArg State.segs h :), (congrArg State.csDefaultSize h :), (congrArg State.tr h :), (congrArg State.debugRegs h :),
    (congrArg State.delivered h :), (congrArg State.launch h :)⟩

/-- `t` differs from `s` in the general registers and in memory alone: so it is with the destination of an OR once it is written. -/
def State.DestinationWritten (s t : State) : Prop := t = { s with regs := t.regs, mem := t.mem }

theorem OnlyMarks.destinationWritten_writeAt (h : OnlyMarks s t) (pas : List Dword) (bs : List Byte) :
    s.DestinationWritten (t.writeAt pas bs) := by
  rw [State.DestinationWritten, State.writeAt_eq_mem, h.eq_with_mem]

theorem OnlyMarks.destinationWritten_setReg (h : OnlyMarks s t) (w : Width) (i : Reg) (v : BitVec w.bits) :
    s.DestinationWritten (t.setReg w i v) := by
  rw [State.DestinationWritten, State.setReg_eq_with_regs, h.eq_with_mem]

/-- The last steps of an OR: flags and EIP, registers and memory as the destination was written. -/
theorem State.finishOr_completes {k : Nat} (h : s.DestinationWritten u) (hadv : s.canAdvance len) (r : BitVec k) :
    ∃ t, u.finishOr r len = .ok () t ∧ t.regs = u.regs ∧ t.mem = u.mem ∧ OrDone s t r len := by
  rw [State.DestinationWritten] at h
  have heip : u.eip = s.eip := by rw [h]
  have hadv' : (u.setLogicFlags r).canAdvance len := by rwa [State.canAdvance, State.setLogicFlags_eip, heip]
  refine ⟨_, State.advance_of_canAdvance hadv', rfl, rfl, ?_⟩
  rw [h]
  exact ⟨Eflags.ofLogic_logicFlags _ _ _, rfl, rfl, .of_fixedPart_eq rfl⟩

/-! OR with a memory destination (R53, R106). -/

theorem State.readAt_congr (h : t.mem = s.mem) (w : Width) (pas : List Dword) : t.readAt w pas = s.readAt w pas := by
  have hread : t.readPhys = s.readPhys := funext fun pa => by rw [State.readPhys, State.readPhys, h]
  rw [State.readAt, State.readAt, hread]

theorem orMemSpec_of_orToMem {a : Addr} {src : State → BitVec w.bits}
    (hrun : ∀ s, run s = s.conclude (s.orToMem w (p.segFor a.defaultSeg) (s.offsetOf a) (src s) len)) :
    OrMemSpec w p a src len run := by
  intro s s1 pas hopen hstore hadv
  have hmarks := (State.openOperand_marks s _ _ w .write pas s1 hopen).1
  obtain ⟨t, hfinish, hregs, hmem, hdone⟩ :=
    State.finishOr_completes (hmarks.destinationWritten_writeAt pas (leBytes (s1.readAt w pas ||| src s) w.bytes)) hadv
      (s1.readAt w pas ||| src s)
  refine ⟨t, ?_, ?_, ?_, hdone, fun a ha => ?_, hmarks⟩
  · rw [hrun, State.orToMem, State.memUpdate_of_open _ hopen hstore, Access.andThen_ok, hfinish, State.conclude_ok]
  · rw [hregs, State.writeAt_regs, hmarks.regs]
  · rw [State.readAt_congr hmem,
      State.readAt_writeAt_leBytes (State.openOperand_nodup hopen) (State.openOperand_length hopen)]
  · rw [hmem]
    exact State.writeAt_sameMemoryBut _ _ _ a ha

/-- Settles O21. -/
theorem orImmediateToMemoryCompletes : Obligations.OrImmediateToMemoryCompletes := fun _ _ =>
  ⟨fun _ => orMemSpec_of_orToMem fun _ => rfl, fun _ => orMemSpec_of_orToMem fun _ => rfl,
    fun _ => orMemSpec_of_orToMem fun _ => rfl, fun _ => orMemSpec_of_orToMem fun _ => rfl,
    fun _ => orMemSpec_of_orToMem fun _ => rfl⟩

/-- Settles O22. -/
theorem orRegisterToMemoryCompletes : Obligations.OrRegisterToMemoryCompletes := fun _ _ _ =>
  ⟨orMemSpec_of_orToMem fun _ => rfl, orMemSpec_of_orToMem fun _ => rfl, orMemSpec_of_orToMem fun _ => rfl⟩

theorem orMemRefusedSpec_of_orToMem {a : Addr} {src : State → BitVec w.bits}
    (hrun : ∀ s, run s = s.conclude (s.orToMem w (p.segFor a.defaultSeg) (s.offsetOf a) (src s) len)) :
    OrMemRefusedSpec w p a len run := by
  intro s s1 pas r hopen hstore
  rw [hrun]
  simp only [State.orToMem, State.memUpdate, hopen, hstore, Access.andThen_ok, Access.andThen_refused, State.conclude_refused]

/-- Settles O25: the refusal comes before the store. -/
theorem orRefusedStoresStop : Obligations.OrRefusedStoresStop := fun _ _ =>
  ⟨fun _ => orMemRefusedSpec_of_orToMem fun _ => rfl, fun _ => orMemRefusedSpec_of_orToMem fun _ => rfl,
    fun _ => orMemRefusedSpec_of_orToMem fun _ => rfl, fun _ => orMemRefusedSpec_of_orToMem fun _ => rfl,
    fun _ => orMemRefusedSpec_of_orToMem fun _ => rfl, fun _ => orMemRefusedSpec_of_orToMem fun _ => rfl,
    fun _ => orMemRefusedSpec_of_orToMem fun _ => rfl, fun _ => orMemRefusedSpec_of_orToMem fun _ => rfl⟩

/-! OR with a memory source (R51, R106; C1). -/

theorem orLoadSpec_of_orFromRm {dst : Reg} {a : Addr} (hrun : ∀ s, run s = s.conclude (s.orFromRm w p dst (.mem a) len)) :
    OrLoadSpec w p dst a len run := by
  intro s s1 v hread hadv
  have hmarks := (State.memRead_marks s _ _ w v s1 hread).1
  obtain ⟨t, hfinish, hregs, hmem, hdone⟩ :=
    State.finishOr_completes (hmarks.destinationWritten_setReg w dst (s.getReg w dst ||| v)) hadv (s.getReg w dst ||| v)
  refine ⟨t, ?_, ?_, hdone, fun x => ?_, hmarks⟩
  · rw [hrun, State.orFromRm, hread, Access.andThen_ok, State.orToReg, State.getReg_congr hmarks.regs, hfinish, State.conclude_ok]
  · rw [hregs, State.setReg_regs_congr hmarks.regs]
  · rw [hmem, State.setReg_mem]

/-- Settles O23. -/
theorem orMemoryToRegisterCompletes : Obligations.OrMemoryToRegisterCompletes := fun _ _ _ =>
  ⟨orLoadSpec_of_orFromRm fun _ => rfl, orLoadSpec_of_orFromRm fun _ => rfl, orLoadSpec_of_orFromRm fun _ => rfl⟩

/-! Memory operands in real-address mode (R47). -/

theorem State.mode_of_pe_false (hpe : s.pe = false) : s.mode = .real := by rw [State.mode, hpe]; rfl

/-- In real-address mode an operand up to offset FFFFh opens at segment base plus offset, and nothing changes. -/
theorem State.openOperand_real {seg : SegReg} {off : Dword} (hpe : s.pe = false) (hoff : off.toNat + w.bytes ≤ 65536)
    (kind : AccessKind) : s.openOperand seg off w kind = .ok (addrRange ((s.segs.get seg).base + off) w.bytes) s := by
  have hmode := State.mode_of_pe_false hpe
  refine State.openOperand_of_unpaged (State.paging_of_real hmode) ?_
  rw [State.segCheck_of_ne_prot (by rw [hmode]; decide), State.segCheckReal_of_le hoff]

theorem State.memRead_real {seg : SegReg} {off : Dword} (hpe : s.pe = false) (hoff : off.toNat + w.bytes ≤ 65536) :
    s.memRead seg off w = .ok (s.readAt w (addrRange ((s.segs.get seg).base + off) w.bytes)) s := by
  rw [State.memRead, State.openOperand_real hpe hoff, Access.andThen_ok]

/-- In real-address mode R208 alone refuses stores: there are no page tables in use and no TSS. -/
theorem State.storeRefusal_real {pas : List Dword} (hpe : s.pe = false) (h : ¬ s.HitsProgramAhead len pas) :
    s.storeRefusal len pas = none := by
  have hpaging := State.paging_of_real (State.mode_of_pe_false hpe)
  refine ((storeRefusedExactlyAhead s len pas).2.2.2).mp ⟨h, fun hp => ?_, fun ht => ?_⟩
  · exact absurd (hp.1.symm.trans hpaging) (by decide)
  · exact absurd (ht.1.symm.trans hpe) (by decide)

theorem OrMemSpec.real {a : Addr} {src : State → BitVec w.bits} (h : OrMemSpec w p a src len run) :
    OrRealMemSpec w p a src len run := by
  intro s pas hpe hadv hoff hpas hprogram
  obtain ⟨t, hrun, hregs, hread, hdone, hmem, -⟩ :=
    h s s pas (hpas ▸ State.openOperand_real hpe hoff .write) (State.storeRefusal_real hpe hprogram) hadv
  exact ⟨t, hrun, hregs, hread, hdone, hmem⟩

theorem OrLoadSpec.real {dst : Reg} {a : Addr} (h : OrLoadSpec w p dst a len run) : OrRealLoadSpec w p dst a len run := by
  intro s v hpe hadv hoff hv
  obtain ⟨t, hrun, hregs, hdone, hmem, -⟩ := h s s v (hv ▸ State.memRead_real hpe hoff) hadv
  exact ⟨t, hrun, hregs, hdone, hmem⟩

/-- Settles O24: the statements for every mode, where the operand opens at consecutive addresses. -/
theorem orMemoryRealModeCompletes : Obligations.OrMemoryRealModeCompletes := by
  intro p a r
  obtain ⟨hb, hw, hd, hwb, hdb⟩ := orImmediateToMemoryCompletes p a
  obtain ⟨hrb, hrw, hrd⟩ := orRegisterToMemoryCompletes p a r
  obtain ⟨hlb, hlw, hld⟩ := orMemoryToRegisterCompletes p a r
  exact ⟨fun imm => (hb imm).real, fun imm => (hw imm).real, fun imm => (hd imm).real, fun imm => (hwb imm).real,
    fun imm => (hdb imm).real, hrb.real, hrw.real, hrd.real, hlb.real, hlw.real, hld.real⟩

/-! OUTS (R155). -/

theorem State.addSized_regs_congr (h : t.regs = s.regs) (z : Size) (i : Reg) (k : Dword) :
    (t.addSized z i k).regs = (s.addSized z i k).regs := by
  cases z with
  | s16 | s32 => simp only [State.addSized, State.getReg_congr h, State.setReg_regs_congr h]

theorem State.afterItem_regs {v : BitVec w.bits} (h : OnlyMarks s t) :
    (s.afterItem t w p v).regs = (s.addSized (s.addressSize p) .esi (s.incDec w)).regs := by
  rw [State.afterItem]
  exact State.addSized_regs_congr (by exact h.regs) ..

theorem State.afterItem_outsItemDone {v : BitVec w.bits} (h : OnlyMarks s t) : OutsItemDone w s t (s.afterItem t w p v) v := by
  have hflags : t.eflags = s.eflags := by rw [h.eq_with_mem]
  refine ⟨?_, ?_, .of_fixedPart_eq ?_, fun a => ?_, h⟩
  · rw [State.afterItem, State.addSized_io, h.io]
  · rw [State.afterItem, State.addSized_eflags, hflags]
  · rw [State.afterItem, State.addSized_fixedPart, ← h.fixedPart]
    rfl
  · rw [State.afterItem, State.addSized_mem]

/-- An OUTS that may transfer its item and advance completes. -/
theorem outsSpec_of_outs (hrun : ∀ s, run s = s.conclude (s.outs w p len)) : OutsSpec w p len run := by
  intro s s1 s2 v hready hadv
  have hmarks := hready.onlyMarks
  have heip := State.afterItem_eip (p := p) (v := v) hmarks
  have hadv' : (s.afterItem s2 w p v).canAdvance len := by rwa [State.canAdvance, heip]
  refine ⟨{ s.afterItem s2 w p v with eip := (s.afterItem s2 w p v).eip + BitVec.ofNat 32 len }, ?_,
    State.afterItem_outsItemDone hmarks, State.afterItem_regs hmarks, by rw [heip]⟩
  rw [hrun, State.outs, State.outsItem_of_ready hready, Access.andThen_ok, State.advance_of_canAdvance hadv', State.conclude_ok]

theorem State.ioCheck_real (hpe : s.pe = false) (port : Half) (n : Nat) : s.ioCheck port n = .ok () s := by
  simp [State.ioCheck, State.ioConsults, hpe]

theorem OutsSpec.real (h : OutsSpec w p len run) : OutsRealSpec w p len run := by
  intro s v hpe hport hadv hoff hv
  have hready : OutsReady w p s s s v := ⟨State.ioCheck_real hpe _ _, hv ▸ State.memRead_real hpe hoff, hport⟩
  obtain ⟨t, hrun, ⟨hio, hflags, hcontrol, hmem, -⟩, hregs, heip⟩ := h s s s v hready hadv
  exact ⟨t, hrun, hio, hregs, heip, hflags, hcontrol, hmem⟩

/-- Settles O50. -/
theorem outsRealModeCompletes : Obligations.OutsRealModeCompletes := fun _ =>
  ⟨(outsSpec_of_outs fun _ => rfl).real, (outsSpec_of_outs fun _ => rfl).real, (outsSpec_of_outs fun _ => rfl).real,
    (outsSpec_of_outs fun _ => rfl).real, (outsSpec_of_outs fun _ => rfl).real, (outsSpec_of_outs fun _ => rfl).real⟩

end Sys2Proof.Machine

/-! PROOFS. Encoding (30_encoding.md): the decoder reads back what the encoder writes (R71 to R89), the order of prefixes (R73),
what is refused (R72, R73, R78, R84, R90), OR to a register (R106), and effective addresses (R81 to R85). -/

namespace Sys2Proof

variable {d : Size} {p : Prefixes} {b : Byte} {t rest : List Byte} {i : Instr}

/-! Opcode bytes (R72 step 3). -/

/-- The byte of an opcode. -/
def Opcode.byte : Opcode → Byte
  | .op08 => 0x08
  | .op09 => 0x09
  | .op0A => 0x0A
  | .op0B => 0x0B
  | .op0C => 0x0C
  | .op0D => 0x0D
  | .op80 => 0x80
  | .op81 => 0x81
  | .op83 => 0x83
  | .opE6 => 0xE6
  | .opE7 => 0xE7
  | .opEE => 0xEE
  | .opEF => 0xEF
  | .op6E => 0x6E
  | .op6F => 0x6F

@[simp] theorem opcodeOf_byte (op : Opcode) : opcodeOf op.byte = some op := by cases op <;> rfl

@[simp] theorem prefixByteOf_opcode (op : Opcode) : prefixByteOf op.byte = none := by cases op <;> rfl

theorem mem_of_opcodeOf {op : Opcode} (h : opcodeOf b = some op) :
    b ∈ ([0x08, 0x09, 0x0A, 0x0B, 0x0C, 0x0D, 0x80, 0x81, 0x83, 0xE6, 0xE7, 0xEE, 0xEF, 0x6E, 0x6F] : List Byte) := by
  by_contra hb
  simp only [List.mem_cons, List.not_mem_nil, or_false, not_or] at hb
  simp only [opcodeOf, hb, if_false] at h
  exact nomatch h

/-- An opcode's byte is the only one read as that opcode. -/
theorem eq_byte_of_opcodeOf {op : Opcode} (h : opcodeOf b = some op) : b = op.byte := by
  have hmem := mem_of_opcodeOf h
  simp only [List.mem_cons, List.not_mem_nil, or_false] at hmem
  rcases hmem with rfl | rfl | rfl | rfl | rfl | rfl | rfl | rfl | rfl | rfl | rfl | rfl | rfl | rfl | rfl <;> cases h <;> rfl

/-! Reading prefixes (R73). -/

@[simp] theorem prefixByteOf_segment (r : SegReg) : prefixByteOf r.prefixByte = some (.seg r) := by cases r <;> rfl

theorem scanPrefixes_of_prefix {sc sc' : Scan} {k : PrefixByte} (hb : prefixByteOf b = some k) (hk : sc.add k = .ok sc') :
    scanPrefixes sc (b :: t) = scanPrefixes sc' t := by
  simp only [scanPrefixes, hb, hk]

theorem scanPrefixes_of_opcode {sc : Scan} (hb : prefixByteOf b = none) : scanPrefixes sc (b :: t) = .done (sc, b) t := by
  simp only [scanPrefixes, hb]

/-- The encoder's prefixes are read back. -/
theorem scanPrefixes_encode (p : Prefixes) (rep : Bool) (t : List Byte) :
    scanPrefixes ⟨⟨false, false, none⟩, rep⟩ (p.encode ++ t) = scanPrefixes ⟨p, rep⟩ t := by
  obtain ⟨o, a, g⟩ := p
  cases g with
  | none => cases o <;> cases a <;> rfl
  | some r =>
    have hseg (o a : Bool) : scanPrefixes ⟨⟨o, a, none⟩, rep⟩ (r.prefixByte :: t) = scanPrefixes ⟨⟨o, a, some r⟩, rep⟩ t :=
      scanPrefixes_of_prefix (prefixByteOf_segment r) rfl
    cases o <;> cases a <;> exact hseg _ _

theorem decode_encode_opcode (d : Size) (p : Prefixes) (op : Opcode) (t : List Byte) :
    decode d (p.encode ++ op.byte :: t) = decodeBody d p op t := by
  rw [decode, Scan.start, scanPrefixes_encode, scanPrefixes_of_opcode (prefixByteOf_opcode op)]
  simp

theorem decode_rep_encode_opcode (d : Size) (p : Prefixes) (op : Opcode) (t : List Byte) :
    decode d (0xF3 :: (p.encode ++ op.byte :: t)) = decodeRepBody d p op t := by
  have hrep : scanPrefixes .start (0xF3 :: (p.encode ++ op.byte :: t)) =
      scanPrefixes ⟨⟨false, false, none⟩, true⟩ (p.encode ++ op.byte :: t) := rfl
  rw [decode, hrep, scanPrefixes_encode, scanPrefixes_of_opcode (prefixByteOf_opcode op)]
  simp

/-! Fields and little-endian values (R41, R79, R84). -/

@[simp] theorem topField_joinFields (top : BitVec 2) (mid low : BitVec 3) : topField (joinFields top mid low) = top := by
  revert top mid low
  decide

@[simp] theorem midField_joinFields (top : BitVec 2) (mid low : BitVec 3) : midField (joinFields top mid low) = mid := by
  revert top mid low
  decide

@[simp] theorem lowField_joinFields (top : BitVec 2) (mid low : BitVec 3) : lowField (joinFields top mid low) = low := by
  revert top mid low
  decide

@[simp] theorem takeByte_cons (v : Byte) (t : List Byte) : takeByte (v :: t) = .done v t := rfl

@[simp] theorem takeHalf_halfBytes (v : Half) (t : List Byte) : takeHalf (halfBytes v ++ t) = .done v t := by
  have hjoin : v.extractLsb' 8 8 ++ v.extractLsb' 0 8 = v :=
    (BitVec.extractLsb'_append_extractLsb'_eq_extractLsb' (by rfl)).trans BitVec.extractLsb'_eq_self
  exact congrArg (Parsed.done · t) hjoin

@[simp] theorem takeDword_dwordBytes (v : Dword) (t : List Byte) : takeDword (dwordBytes v ++ t) = .done v t := by
  have hjoin : v.extractLsb' 24 8 ++ v.extractLsb' 16 8 ++ v.extractLsb' 8 8 ++ v.extractLsb' 0 8 = v := by
    rw [BitVec.extractLsb'_append_extractLsb'_eq_extractLsb' (by rfl), BitVec.extractLsb'_append_extractLsb'_eq_extractLsb' (by rfl),
      BitVec.extractLsb'_append_extractLsb'_eq_extractLsb' (by rfl)]
    exact BitVec.extractLsb'_eq_self
  exact congrArg (Parsed.done · t) hjoin

/-! The r/m operand (R79 to R86). -/

@[simp] theorem Reg.ofNum_num (r : Reg) : Reg.ofNum r.num = r := by cases r <;> rfl

@[simp] theorem Base16.ofNum_num (b : Base16) : Base16.ofNum b.num = b := by cases b <;> rfl

@[simp] theorem Reg.num_eq_four_iff (r : Reg) : r.num = 4#3 ↔ r = .esp := by cases r <;> decide

@[simp] theorem Reg.num_eq_five_iff (r : Reg) : r.num = 5#3 ↔ r = .ebp := by cases r <;> decide

@[simp] theorem Base16.num_eq_six_iff (b : Base16) : b.num = 6#3 ↔ b = .bp := by cases b <;> decide

/-- The scale and index fields of an index part are read back as it (R84). -/
theorem indexOf_fields {ix : Index} (h : ix.wf = true) : indexOf ix.fields.1 ix.fields.2 = .ok ix := by
  cases ix with
  | none => rfl
  | scaled r scale =>
    have hesp : r ≠ .esp := by simpa [Index.wf] using h
    simp [indexOf, Index.fields, hesp]

@[simp] theorem decodeModRm_s16_joinFields (mod : BitVec 2) (reg rm : BitVec 3) (t : List Byte) :
    decodeModRm .s16 (joinFields mod reg rm :: t) = (decodeRm16 mod rm t).andThen fun o rest => .done (reg, o) rest := by
  simp [decodeModRm]

@[simp] theorem decodeModRm_s32_joinFields (mod : BitVec 2) (reg rm : BitVec 3) (t : List Byte) :
    decodeModRm .s32 (joinFields mod reg rm :: t) = (decodeRm32 mod rm t).andThen fun o rest => .done (reg, o) rest := by
  simp [decodeModRm]

/-- A register operand is read back under either address size (R80). -/
theorem decodeModRm_encode_register (asz : Size) (reg : BitVec 3) (r : Reg) (t : List Byte) :
    decodeModRm asz ((RM.reg r).encode reg ++ t) = .done (reg, .reg r) t := by
  cases asz with
  | s16 => simp [RM.encode, decodeRm16]
  | s32 => simp [RM.encode, decodeRm32]

/-- A memory operand is read back under its own address size (R81, R83, R84). -/
theorem decodeModRm_encode_memory (reg : BitVec 3) {a : Addr} (h : a.wf = true) (t : List Byte) :
    decodeModRm a.size ((RM.mem a).encode reg ++ t) = .done (reg, .mem a) t := by
  cases a with
  | direct16 d => simp [RM.encode, Addr.encode, Addr.size, decodeRm16]
  | based16 b d =>
    cases d with
    | none =>
      have hbp : b ≠ .bp := by simpa [Addr.wf] using h
      simp [RM.encode, Addr.encode, Addr.size, decodeRm16, hbp]
    | d8 d | d16 d => simp [RM.encode, Addr.encode, Addr.size, decodeRm16]
  | direct32 d => simp [RM.encode, Addr.encode, Addr.size, decodeRm32]
  | based32 r d =>
    obtain ⟨hesp, hebp⟩ : r ≠ .esp ∧ (r = .ebp → d ≠ .none) := by simpa [Addr.wf, imp_iff_not_or] using h
    cases d with
    | none =>
      have hebp : r ≠ .ebp := fun hr => hebp hr rfl
      simp [RM.encode, Addr.encode, Addr.size, decodeRm32, hesp, hebp]
    | d8 d | d32 d => simp [RM.encode, Addr.encode, Addr.size, decodeRm32, hesp]
  | sib base ix d =>
    obtain ⟨hix, hebp⟩ : ix.wf = true ∧ (base = .ebp → d ≠ .none) := by simpa [Addr.wf, imp_iff_not_or] using h
    cases d with
    | none =>
      have hebp : base ≠ .ebp := fun hr => hebp hr rfl
      simp [RM.encode, Addr.encode, Addr.size, decodeRm32, decodeSib, sibByteOf, indexOf_fields hix, hebp]
    | d8 d | d32 d =>
      simp [RM.encode, Addr.encode, Addr.size, decodeRm32, decodeSib, sibByteOf, indexOf_fields hix]
  | sibNoBase ix d =>
    have hix : ix.wf = true := h
    simp [RM.encode, Addr.encode, Addr.size, decodeRm32, decodeSib, sibByteOf, indexOf_fields hix]

/-- A well-formed r/m operand and its reg field are read back from its encoding. -/
theorem decodeModRm_encode {rm : RM} (h : rm.wf d p = true) (reg : BitVec 3) (t : List Byte) :
    decodeModRm (p.addressSize d) (rm.encode reg ++ t) = .done (reg, rm) t := by
  cases rm with
  | reg r => exact decodeModRm_encode_register _ reg r t
  | mem a =>
    obtain ⟨hwf, hsize⟩ : a.wf = true ∧ a.size = p.addressSize d := by simpa [RM.wf] using h
    rw [← hsize]
    exact decodeModRm_encode_memory reg hwf t

theorem decodeSlash1_encode {rm : RM} (h : rm.wf d p = true) (t : List Byte) :
    decodeSlash1 (p.addressSize d) (rm.encode 1#3 ++ t) = .done rm t := by
  simp [decodeSlash1, decodeModRm_encode h]

/-! Instructions (R72, R88, R89). -/

theorem decode_of_decodeBody {op : Opcode} {body : List Byte} (h : decodeBody d p op (body ++ rest) = .done i rest) :
    decode d ((p.encode ++ op.byte :: body) ++ rest) = .done i rest := by
  rw [List.append_assoc, List.cons_append, decode_encode_opcode, h]

theorem decode_of_decodeRepBody {op : Opcode} {body : List Byte} (h : decodeRepBody d p op (body ++ rest) = .done i rest) :
    decode d ((0xF3 :: (p.encode ++ op.byte :: body)) ++ rest) = .done i rest := by
  rw [List.cons_append, List.append_assoc, List.cons_append, decode_rep_encode_opcode, h]

theorem outsSpelling_written {written plain : Instr} (h : p.seg.isSome = true) : outsSpelling p written plain = written := if_pos h

theorem outsSpelling_plain {written plain : Instr} (h : p.seg.isNone = true) : outsSpelling p written plain = plain :=
  if_neg (by simpa using h)

/-- The two conditions under which a row of a given operand size is well-formed (R89). -/
theorem operandSize_and_of_wf {z : Size} {c : Bool} (h : (p.operandSize d = z && c) = true) : p.operandSize d = z ∧ c = true := by
  simpa using h

/-- Settles O1: prefixes, opcode and r/m operand are read back one after the other, and OperandSize chooses the row. -/
theorem decodeInvertsEncode : Obligations.DecodeInvertsEncode := by
  intro d i rest hwf
  cases i with
  | orAlImm8 p imm => exact decode_of_decodeBody (op := .op0C) rfl
  | outImm8Al p port => exact decode_of_decodeBody (op := .opE6) rfl
  | outDxAl p => exact decode_of_decodeBody (op := .opEE) rfl
  | orAxImm16 p imm | orEaxImm32 p imm =>
    exact decode_of_decodeBody (op := .op0D) (by simp [decodeBody, of_decide_eq_true hwf])
  | outImm8Ax p port | outImm8Eax p port =>
    exact decode_of_decodeBody (op := .opE7) (by simp [decodeBody, of_decide_eq_true hwf])
  | outDxAx p | outDxEax p => exact decode_of_decodeBody (op := .opEF) (by simp [decodeBody, of_decide_eq_true hwf])
  | orRm8Imm8 p rm imm => exact decode_of_decodeBody (op := .op80) (by simp [decodeBody, decodeSlash1_encode hwf])
  | orRm8R8 p rm r => exact decode_of_decodeBody (op := .op08) (by simp [decodeBody, decodeModRm_encode hwf])
  | orR8Rm8 p r rm => exact decode_of_decodeBody (op := .op0A) (by simp [decodeBody, decodeModRm_encode hwf])
  | orRm16Imm16 p rm imm | orRm32Imm32 p rm imm =>
    obtain ⟨hsize, hrm⟩ := operandSize_and_of_wf hwf
    exact decode_of_decodeBody (op := .op81) (by simp [decodeBody, decodeSlash1_encode hrm, hsize])
  | orRm16Imm8 p rm imm | orRm32Imm8 p rm imm =>
    obtain ⟨hsize, hrm⟩ := operandSize_and_of_wf hwf
    exact decode_of_decodeBody (op := .op83) (by simp [decodeBody, decodeSlash1_encode hrm, hsize])
  | orRm16R16 p rm r | orRm32R32 p rm r =>
    obtain ⟨hsize, hrm⟩ := operandSize_and_of_wf hwf
    exact decode_of_decodeBody (op := .op09) (by simp [decodeBody, decodeModRm_encode hrm, hsize])
  | orR16Rm16 p r rm | orR32Rm32 p r rm =>
    obtain ⟨hsize, hrm⟩ := operandSize_and_of_wf hwf
    exact decode_of_decodeBody (op := .op0B) (by simp [decodeBody, decodeModRm_encode hrm, hsize])
  | outsDxRm8 p => exact decode_of_decodeBody (op := .op6E) (by simp [decodeBody, outsSpelling_written hwf])
  | outsb p => exact decode_of_decodeBody (op := .op6E) (by simp [decodeBody, outsSpelling_plain hwf])
  | outsDxRm16 p | outsDxRm32 p =>
    obtain ⟨hsize, hseg⟩ := operandSize_and_of_wf hwf
    exact decode_of_decodeBody (op := .op6F) (by simp [decodeBody, hsize, outsSpelling_written hseg])
  | outsw p | outsd p =>
    obtain ⟨hsize, hseg⟩ := operandSize_and_of_wf hwf
    exact decode_of_decodeBody (op := .op6F) (by simp [decodeBody, hsize, outsSpelling_plain hseg])
  | repOutsb p => exact decode_of_decodeRepBody (op := .op6E) rfl
  | repOutsw p | repOutsd p => exact decode_of_decodeRepBody (op := .op6F) (by simp [decodeRepBody, of_decide_eq_true hwf])

end Sys2Proof

namespace Sys2Proof

variable {d : Size} {p : Prefixes} {b : Byte} {pre pre' body rest : List Byte} {i : Instr} {sc sc' sc1 sc2 : Scan} {x : Scan × Byte}

/-! Prefixes in any order (R73). -/

/-- What is known when the bytes read begin with one of the eleven of R73. -/
theorem scanPrefixes_cons_eq_done {t : List Byte} (hb : prefixByteOf b ≠ none) : scanPrefixes sc (b :: t) = .done x rest ↔
    ∃ k sc', prefixByteOf b = some k ∧ sc.add k = .ok sc' ∧ scanPrefixes sc' t = .done x rest := by
  obtain ⟨k, hk⟩ := Option.ne_none_iff_exists'.mp hb
  cases hadd : sc.add k <;> simp [scanPrefixes, hk, hadd]

/-! When one more byte is read, and what it leaves: one lemma per class. -/

@[simp] theorem Scan.add_opsize_eq_ok :
    sc.add .opsize = .ok sc' ↔ sc.p.opsize = false ∧ { sc with p := { sc.p with opsize := true } } = sc' := by
  cases h : sc.p.opsize <;> simp [Scan.add, h]

@[simp] theorem Scan.add_adsize_eq_ok :
    sc.add .adsize = .ok sc' ↔ sc.p.adsize = false ∧ { sc with p := { sc.p with adsize := true } } = sc' := by
  cases h : sc.p.adsize <;> simp [Scan.add, h]

@[simp] theorem Scan.add_seg_eq_ok {r : SegReg} :
    sc.add (.seg r) = .ok sc' ↔ sc.p.seg = none ∧ { sc with p := { sc.p with seg := some r } } = sc' := by
  cases h : sc.p.seg <;> simp [Scan.add, h]

@[simp] theorem Scan.add_rep_eq_ok : sc.add .rep = .ok sc' ↔ sc.rep = false ∧ { sc with rep := true } = sc' := by
  cases h : sc.rep <;> simp [Scan.add, h]

@[simp] theorem Scan.add_refused : sc.add .refused = .error .prefixNotSpecified := rfl

/-- Two prefixes read after each other are of different classes, so they write different fields and can be read in the other order. -/
theorem Scan.add_comm {k k' : PrefixByte} (h : sc.add k = .ok sc1) (h' : sc1.add k' = .ok sc2) :
    ∃ sc1', sc.add k' = .ok sc1' ∧ sc1'.add k = .ok sc2 := by
  cases k with
  | opsize | adsize | rep | seg r =>
    obtain ⟨hfree, rfl⟩ := by simpa using h
    cases k' <;> simp_all
  | refused => exact nomatch h

theorem scanPrefixes_perm (h : pre.Perm pre') (hpre : ∀ b ∈ pre, prefixByteOf b ≠ none)
    (hscan : scanPrefixes sc (pre ++ body) = .done x rest) : scanPrefixes sc (pre' ++ body) = .done x rest := by
  induction h generalizing sc with
  | nil => exact hscan
  | cons b _ ih =>
    obtain ⟨hb, ht⟩ := List.forall_mem_cons.mp hpre
    obtain ⟨k, sc', hk, hadd, hrest⟩ := (scanPrefixes_cons_eq_done hb).mp hscan
    exact (scanPrefixes_cons_eq_done hb).mpr ⟨k, sc', hk, hadd, ih ht hrest⟩
  | swap b b' t =>
    obtain ⟨hb', hb, -⟩ : prefixByteOf b' ≠ none ∧ prefixByteOf b ≠ none ∧ _ := by simpa using hpre
    obtain ⟨k', sc1, hk', hadd', hscan⟩ := (scanPrefixes_cons_eq_done hb').mp hscan
    obtain ⟨k, sc2, hk, hadd, hscan⟩ := (scanPrefixes_cons_eq_done hb).mp hscan
    obtain ⟨sc1', hadd, hadd'⟩ := Scan.add_comm hadd' hadd
    exact (scanPrefixes_cons_eq_done hb).mpr ⟨k, sc1', hk, hadd, (scanPrefixes_cons_eq_done hb').mpr ⟨k', sc2, hk', hadd', hscan⟩⟩
  | trans h _ ih ih' => exact ih' (fun b hb => hpre b (h.mem_iff.mpr hb)) (ih hpre hscan)

/-- Settles O3: the same prefixes are read, in another order. -/
theorem prefixOrderDoesNotMatter : Obligations.PrefixOrderDoesNotMatter := by
  intro d pre pre' body rest i hperm hpre hdecode
  obtain ⟨x, mid, hscan, hbody⟩ := Parsed.andThen_eq_done.mp hdecode
  exact Parsed.andThen_eq_done.mpr ⟨x, mid, scanPrefixes_perm hperm hpre hscan, hbody⟩

/-! What stands before the opcode of a decoded instruction (R73, R78). -/

/-- The bytes of the prefixes read so far, in one fixed order. -/
def Scan.bytes (sc : Scan) : List Byte := sc.p.encode ++ if sc.rep then [0xF3] else []

/-- The bytes that are read as one class. -/
def PrefixByte.bytes : PrefixByte → List Byte
  | .opsize => [0x66]
  | .adsize => [0x67]
  | .seg r => [r.prefixByte]
  | .rep => [0xF3]
  | .refused => [0xF2, 0xF0]

theorem mem_bytes_of_prefixByteOf {k : PrefixByte} (h : prefixByteOf b = some k) : b ∈ k.bytes := by
  have hmem : b ∈ ([0x66, 0x67, 0x26, 0x2E, 0x36, 0x3E, 0x64, 0x65, 0xF3, 0xF2, 0xF0] : List Byte) := by
    by_contra hb
    simp only [List.mem_cons, List.not_mem_nil, or_false, not_or] at hb
    simp only [prefixByteOf, hb, if_false] at h
    exact nomatch h
  simp only [List.mem_cons, List.not_mem_nil, or_false] at hmem
  rcases hmem with rfl | rfl | rfl | rfl | rfl | rfl | rfl | rfl | rfl | rfl | rfl <;> cases h <;> decide

/-- A byte that is read is added to those read before. -/
theorem Scan.bytes_add {k : PrefixByte} (hb : prefixByteOf b = some k) (h : sc.add k = .ok sc') :
    sc'.bytes.Perm (b :: sc.bytes) := by
  have hmem := mem_bytes_of_prefixByteOf hb
  rw [List.perm_iff_count]
  intro c
  cases k with
  | opsize | adsize | rep | seg r =>
    obtain ⟨hfree, rfl⟩ := by simpa using h
    obtain rfl := List.mem_singleton.mp hmem
    simp [Scan.bytes, Prefixes.encode, List.count_cons, hfree] <;> omega
  | refused => exact nomatch h

theorem scanPrefixes_bytes (hpre : ∀ b ∈ pre, prefixByteOf b ≠ none) (hscan : scanPrefixes sc (pre ++ body) = .done x rest) :
    ∃ sc', sc'.bytes.Perm (pre ++ sc.bytes) ∧ scanPrefixes sc' body = .done x rest := by
  induction pre generalizing sc with
  | nil => exact ⟨sc, .rfl, hscan⟩
  | cons b t ih =>
    obtain ⟨hb, ht⟩ := List.forall_mem_cons.mp hpre
    obtain ⟨k, sc1, hk, hadd, hrest⟩ := (scanPrefixes_cons_eq_done hb).mp hscan
    obtain ⟨sc', hbytes, hscan'⟩ := ih ht hrest
    exact ⟨sc', hbytes.trans (((Scan.bytes_add hk hadd).append_left t).trans List.perm_middle), hscan'⟩

/-- What is known of bytes that decode: prefixes of a scan in some order, an opcode, and what the opcode reads. -/
theorem decode_eq_done_of_prefixes {t : List Byte} (hpre : ∀ x ∈ pre, prefixByteOf x ≠ none) (hb : prefixByteOf b = none)
    (h : decode d (pre ++ b :: t) = .done i rest) : ∃ (sc : Scan) (op : Opcode), sc.bytes.Perm pre ∧ b = op.byte ∧
      (if sc.rep then decodeRepBody d sc.p op t else decodeBody d sc.p op t) = .done i rest := by
  obtain ⟨x, mid, hscan, hbody⟩ := Parsed.andThen_eq_done.mp h
  obtain ⟨sc, hbytes, hscan'⟩ := scanPrefixes_bytes hpre hscan
  rw [scanPrefixes_of_opcode hb] at hscan'
  injection hscan' with hx hmid
  subst hx hmid
  cases hop : opcodeOf b with
  | none => simp [hop] at hbody
  | some op =>
    refine ⟨sc, op, by simpa [Scan.bytes, Scan.start, Prefixes.encode] using hbytes, eq_byte_of_opcodeOf hop, ?_⟩
    simpa only [hop] using hbody

/-! What a scan can hold: each class once, F0h and F2h never. -/

theorem sublist_singleton_of_if (c : Bool) (b : Byte) : (if c then [b] else []).Sublist [b] := by
  cases c <;> simp

theorem Scan.bytes_sublist (sc : Scan) : ∃ r : SegReg, sc.bytes.Sublist [0x66, 0x67, r.prefixByte, 0xF3] := by
  obtain ⟨⟨o, a, g⟩, rep⟩ := sc
  have hsizes := (sublist_singleton_of_if o 0x66).append (sublist_singleton_of_if a 0x67)
  have hrep := sublist_singleton_of_if rep 0xF3
  cases g with
  | none => exact ⟨.es, (hsizes.append (List.nil_sublist [SegReg.es.prefixByte])).append hrep⟩
  | some r => exact ⟨r, (hsizes.append (.refl _)).append hrep⟩

theorem Scan.nodup_bytes (sc : Scan) : sc.bytes.Nodup := by
  obtain ⟨r, hsub⟩ := sc.bytes_sublist
  refine hsub.nodup ?_
  cases r <;> decide

theorem Scan.lock_repne_notMem_bytes (sc : Scan) : 0xF0 ∉ sc.bytes ∧ 0xF2 ∉ sc.bytes := by
  obtain ⟨r, hsub⟩ := sc.bytes_sublist
  refine ⟨fun h => absurd (hsub.subset h) ?_, fun h => absurd (hsub.subset h) ?_⟩ <;> cases r <;> decide

theorem Scan.countP_segment_bytes_le_one (sc : Scan) :
    sc.bytes.countP (fun x => x ∈ ([0x26, 0x2E, 0x36, 0x3E, 0x64, 0x65] : List Byte)) ≤ 1 := by
  obtain ⟨r, hsub⟩ := sc.bytes_sublist
  refine hsub.countP_le.trans ?_
  cases r <;> decide

theorem SegReg.prefixByte_ne (r : SegReg) : 0x67#8 ≠ r.prefixByte ∧ 0xF3#8 ≠ r.prefixByte := by cases r <;> decide

theorem Scan.adsize_mem_bytes_iff : 0x67 ∈ sc.bytes ↔ sc.p.adsize = true := by
  cases hseg : sc.p.seg <;> simp [Scan.bytes, Prefixes.encode, hseg, SegReg.prefixByte_ne]

theorem Scan.rep_mem_bytes_iff : 0xF3 ∈ sc.bytes ↔ sc.rep = true := by
  cases hseg : sc.p.seg <;> simp [Scan.bytes, Prefixes.encode, hseg, SegReg.prefixByte_ne]

/-! What the opcode reads (R72, R84, R90). -/

/-- F3h is decoded before 6E and 6F alone (R78). -/
theorem byte_of_decodeRepBody {op : Opcode} {t : List Byte} (h : decodeRepBody d p op t = .done i rest) :
    op.byte = 0x6E ∨ op.byte = 0x6F := by
  unfold decodeRepBody at h
  split at h
  · exact .inl rfl
  · exact .inr rfl
  · exact nomatch h

theorem midField_of_decodeSlash1 {asz : Size} {t : List Byte} {rm : RM} (h : decodeSlash1 asz t = .done rm rest) :
    ∃ m tail, t = m :: tail ∧ midField m = 1 := by
  obtain ⟨x, mid, hmodrm, hreg⟩ := Parsed.andThen_eq_done.mp h
  cases t with
  | nil => exact nomatch hmodrm
  | cons m tail =>
    rw [decodeModRm, takeByte_cons, Parsed.andThen_done] at hmodrm
    obtain ⟨rm', mid', -, hfields⟩ := Parsed.andThen_eq_done.mp hmodrm
    injection hfields with hx
    refine ⟨m, tail, rfl, ?_⟩
    by_contra hne
    rw [← hx, if_neg hne] at hreg
    exact nomatch hreg

/-- 80, 81 and 83 read a ModR/M byte whose reg field is 001b (R90). -/
theorem midField_of_decodeBody {op : Opcode} {t : List Byte} (hop : op.byte = 0x80 ∨ op.byte = 0x81 ∨ op.byte = 0x83)
    (h : decodeBody d p op t = .done i rest) : ∃ m tail, t = m :: tail ∧ midField m = 1 := by
  cases op with
  | op80 | op81 | op83 =>
    obtain ⟨rm, mid, hslash, -⟩ := Parsed.andThen_eq_done.mp h
    exact midField_of_decodeSlash1 hslash
  | op08 | op09 | op0A | op0B | op0C | op0D | opE6 | opE7 | opEE | opEF | op6E | op6F => exact absurd hop (by decide)

/-- An opcode with a ModR/M byte is refused with its operand. -/
theorem decodeBody_of_decodeModRm_bad {op : Opcode} {t : List Byte} {e : DecodeError}
    (hop : op.byte ∈ ([0x08, 0x09, 0x0A, 0x0B, 0x80, 0x81, 0x83] : List Byte)) (h : decodeModRm (p.addressSize d) t = .bad e) :
    decodeBody d p op t = .bad e := by
  cases op with
  | op08 | op09 | op0A | op0B => simp only [decodeBody, h, Parsed.andThen_bad]
  | op80 | op81 | op83 => simp only [decodeBody, decodeSlash1, h, Parsed.andThen_bad]
  | op0C | op0D | opE6 | opE7 | opEE | opEF | op6E | op6F => exact absurd hop (by decide)

/-- A SIB byte with index 100b and a scale other than 00b is refused (R84, D22). -/
theorem decodeModRm_of_sibIndexScale {m sib : Byte} {t : List Byte} (hmod : topField m ≠ 3) (hrm : lowField m = 4)
    (hindex : midField sib = 4) (hscale : topField sib ≠ 0) : decodeModRm .s32 (m :: sib :: t) = .bad .sibIndexScale := by
  have hsib : indexOf (topField sib) (midField sib) = .error .sibIndexScale := by rw [indexOf, if_pos hindex, if_neg hscale]
  simp only [decodeModRm, takeByte_cons, Parsed.andThen_done, decodeRm32, if_neg hmod, if_pos hrm, decodeSib, hsib,
    Parsed.andThen_bad]

/-- Settles O4: before the opcode stand the bytes of a scan in some order, and the opcode decides what follows. -/
theorem refusedEncodingsNeverDecode : Obligations.RefusedEncodingsNeverDecode := by
  refine ⟨fun d pre t rest b i hpre hb h => ?_, fun d t b hb hop => ?_,
    fun d pre t rest b m sib i hpre hb hasz hmod hrm hindex hscale h => ?_⟩
  · obtain ⟨sc, op, hperm, rfl, hbody⟩ := decode_eq_done_of_prefixes hpre hb h
    obtain ⟨hlock, hrepne⟩ := sc.lock_repne_notMem_bytes
    simp only [← hperm.mem_iff, ← hperm.count_eq, ← hperm.countP_eq]
    have hcount := List.nodup_iff_count_le_one.mp sc.nodup_bytes
    refine ⟨mem_of_opcodeOf (opcodeOf_byte op), hlock, hrepne, fun hrep => ?_, hcount _, hcount _, hcount _,
      sc.countP_segment_bytes_le_one, fun hslash => ?_⟩
    · rw [if_pos (Scan.rep_mem_bytes_iff.mp hrep)] at hbody
      exact byte_of_decodeRepBody hbody
    · split at hbody
      · exact absurd (byte_of_decodeRepBody hbody) (by rcases hslash with h | h | h <;> rw [h] <;> decide)
      · exact midField_of_decodeBody hslash hbody
  · rw [decode, scanPrefixes_of_opcode hb, Parsed.andThen_done, hop]
  · have hopcodes : ∀ x ∈ ([0x08, 0x09, 0x0A, 0x0B, 0x80, 0x81, 0x83] : List Byte), prefixByteOf x = none := by decide
    obtain ⟨sc, op, hperm, rfl, hbody⟩ := decode_eq_done_of_prefixes hpre (hopcodes b hb) h
    rw [← hperm.mem_iff, Scan.adsize_mem_bytes_iff] at hasz
    have hsize : sc.p.addressSize d = .s32 := by
      cases d <;> simp_all [Prefixes.addressSize, Size.toggled, Size.other]
    split at hbody
    · exact absurd hb (by rcases byte_of_decodeRepBody hbody with h | h <;> rw [h] <;> decide)
    · rw [decodeBody_of_decodeModRm_bad hb (hsize ▸ decodeModRm_of_sibIndexScale hmod hrm hindex hscale)] at hbody
      exact nomatch hbody

end Sys2Proof

namespace Sys2Proof.Machine

variable {len : Nat} {w : Width} {run : State → Host.Outcome State Fault Refusal}

/-! Words written out (R71). -/

/-- Settles O5: each word is closed, so the decoder is run on it. -/
theorem writtenWordsDecode : Obligations.WrittenWordsDecode := by
  unfold Obligations.WrittenWordsDecode
  decide

/-! OR with a register destination (R106). -/

theorem orRegSpec_of_orToReg {dst : Reg} {src : State → BitVec w.bits}
    (hrun : ∀ s, run s = s.conclude (s.orToReg w dst (src s) len)) : OrRegSpec w dst src len run := by
  intro s hadv
  obtain ⟨t, hfinish, hregs, hmem, hdone⟩ :=
    State.finishOr_completes ((OnlyMarks.refl s).destinationWritten_setReg w dst (s.getReg w dst ||| src s)) hadv
      (s.getReg w dst ||| src s)
  refine ⟨t, ?_, hregs, hdone, fun a => ?_⟩
  · rw [hrun, State.orToReg, hfinish, State.conclude_ok]
  · rw [hmem, State.setReg_mem]

/-- Settles O19. -/
theorem orImmediateToRegisterCompletes : Obligations.OrImmediateToRegisterCompletes := fun _ _ =>
  ⟨fun _ => orRegSpec_of_orToReg fun _ => rfl, fun _ => orRegSpec_of_orToReg fun _ => rfl,
    fun _ => orRegSpec_of_orToReg fun _ => rfl, fun _ => orRegSpec_of_orToReg fun _ => rfl,
    fun _ => orRegSpec_of_orToReg fun _ => rfl⟩

/-! Effective addresses (R81 to R85): the wrapping sum of words is the exact sum, cut to the words' width. -/

theorem toNat_eq_emod_of_eq_ofInt {k : Nat} {v : BitVec k} {z : Int} (h : v = BitVec.ofInt k z) : (v.toNat : Int) = z % 2 ^ k := by
  have hnonneg : 0 ≤ z % 2 ^ k := Int.emod_nonneg _ (by positivity)
  simpa [h] using hnonneg

theorem twoPow_eq_ofInt (k n : Nat) : BitVec.twoPow k n = BitVec.ofInt k (2 ^ n) := by
  have hcast : (2 : Int) ^ n = ((2 ^ n : Nat) : Int) := by push_cast; rfl
  rw [hcast, BitVec.ofInt_natCast, ← BitVec.toNat_inj, BitVec.toNat_twoPow, BitVec.toNat_ofNat]

/-- The low half of a register as a number. -/
def State.exactReg16 (s : State) (r : Reg) : Int := (((s.regs.get32 r).toNat % 65536 : Nat) : Int)

/-- The register part of `exactSum16`. -/
def State.exactBase16 (s : State) : Base16 → Int
  | .bxSi => s.exactReg16 .ebx + s.exactReg16 .esi
  | .bxDi => s.exactReg16 .ebx + s.exactReg16 .edi
  | .bpSi => s.exactReg16 .ebp + s.exactReg16 .esi
  | .bpDi => s.exactReg16 .ebp + s.exactReg16 .edi
  | .si => s.exactReg16 .esi
  | .di => s.exactReg16 .edi
  | .bp => s.exactReg16 .ebp
  | .bx => s.exactReg16 .ebx

/-- The displacement part of `exactSum16`: a disp8 is signed. -/
def exactDisp16 : Disp16 → Int
  | .none => 0
  | .d8 d => d.toInt
  | .d16 d => d.toNat

theorem exactSum16_based16 (s : State) (b : Base16) (d : Disp16) :
    exactSum16 s (.based16 b d) = s.exactBase16 b + exactDisp16 d := by cases b <;> cases d <;> rfl

theorem State.r16_eq_ofInt (s : State) (r : Reg) : s.r16 r = BitVec.ofInt 16 (s.exactReg16 r) := by
  rw [State.exactReg16, BitVec.ofInt_natCast, ← BitVec.toNat_inj]
  simp [State.r16, State.getReg, Regs.get16]

theorem State.sum16_eq_ofInt (s : State) (b : Base16) : s.sum16 b = BitVec.ofInt 16 (s.exactBase16 b) := by
  cases b with
  | bxSi | bxDi | bpSi | bpDi => simp only [State.sum16, State.exactBase16, BitVec.ofInt_add, State.r16_eq_ofInt]
  | si | di | bp | bx => exact s.r16_eq_ofInt _

theorem disp16_value_eq_ofInt (d : Disp16) : d.value = BitVec.ofInt 16 (exactDisp16 d) := by
  cases d with
  | none | d8 d => rfl
  | d16 d => simp [Disp16.value, exactDisp16]

/-- A 16-bit effective address is a word, cut from the exact sum and zero-extended (R82). -/
theorem State.offsetOf_eq_setWidth_ofInt (s : State) {a : Addr} (h : a.size = .s16) :
    s.offsetOf a = (BitVec.ofInt 16 (exactSum16 s a)).setWidth 32 := by
  cases a with
  | direct16 d => simp [State.offsetOf, exactSum16]
  | based16 b d => rw [State.offsetOf, exactSum16_based16, BitVec.ofInt_add, ← s.sum16_eq_ofInt, ← disp16_value_eq_ofInt]
  | direct32 d | based32 r d | sib r ix d | sibNoBase ix d => exact nomatch h

/-- Settles O31. -/
theorem effectiveAddress16Wraps : Obligations.EffectiveAddress16Wraps := by
  intro s a h
  rw [s.offsetOf_eq_setWidth_ofInt h, BitVec.toNat_setWidth_of_le (by decide)]
  exact ⟨toNat_eq_emod_of_eq_ofInt rfl, BitVec.isLt _⟩

theorem disp32_value_eq_ofInt (d : Disp32) : d.value = BitVec.ofInt 32 (exactSum32.disp d) := by
  cases d with
  | none | d8 d => rfl
  | d32 d => simp [Disp32.value, exactSum32.disp]

theorem State.r32_eq_ofInt (s : State) (r : Reg) : s.r32 r = BitVec.ofInt 32 (exactSum32.reg s r) := by
  simp [State.r32, State.getReg, exactSum32.reg]

theorem State.indexPart_eq_ofInt (s : State) (ix : Index) : s.indexPart ix = BitVec.ofInt 32 (exactSum32.index s ix) := by
  cases ix with
  | none => rfl
  | scaled r scale =>
    rw [State.indexPart, exactSum32.index, BitVec.ofInt_mul, ← State.r32_eq_ofInt, ← twoPow_eq_ofInt,
      BitVec.shiftLeft_eq_mul_twoPow]

theorem State.offsetOf_eq_ofInt (s : State) {a : Addr} (h : a.size = .s32) : s.offsetOf a = BitVec.ofInt 32 (exactSum32 s a) := by
  cases a with
  | direct16 d | based16 b d => exact nomatch h
  | direct32 d => simp [State.offsetOf, exactSum32]
  | based32 r d => simp [State.offsetOf, exactSum32, BitVec.ofInt_add, State.r32_eq_ofInt, disp32_value_eq_ofInt]
  | sib base ix d =>
    simp [State.offsetOf, exactSum32, BitVec.ofInt_add, State.r32_eq_ofInt, State.indexPart_eq_ofInt, disp32_value_eq_ofInt]
  | sibNoBase ix d => simp [State.offsetOf, exactSum32, BitVec.ofInt_add, State.indexPart_eq_ofInt]

/-- Settles O32. -/
theorem effectiveAddress32Wraps : Obligations.EffectiveAddress32Wraps := fun s _ h =>
  toNat_eq_emod_of_eq_ofInt (s.offsetOf_eq_ofInt h)

end Sys2Proof.Machine

/-! PROOFS. OR and exceptions (40_or.md, 60_exceptions.md): the forms of OR without a memory operand (R103, R107 to R121), which
exceptions each mode has (R103 to R105, R163, R174, R175), and where an operand or a permission lookup traps (R181, R182). -/

namespace Sys2Proof.Machine

variable {s : State} {len : Nat} {w : Width} {r : Reg} {run : State → Host.Outcome State Fault Refusal}

/-! OR of registers and immediates (R107 to R121). -/

/-- Settles O18: each form is the OR of a register with its immediate. -/
theorem orAccumulatorImmediateCompletes : Obligations.OrAccumulatorImmediateCompletes := fun _ =>
  ⟨fun _ => orRegSpec_of_orToReg fun _ => rfl, fun _ => orRegSpec_of_orToReg fun _ => rfl,
    fun _ => orRegSpec_of_orToReg fun _ => rfl⟩

/-- Settles O20: each form is the OR of its destination register with its source register. -/
theorem orRegisterToRegisterCompletes : Obligations.OrRegisterToRegisterCompletes := fun _ _ _ =>
  ⟨orRegSpec_of_orToReg fun _ => rfl, orRegSpec_of_orToReg fun _ => rfl, orRegSpec_of_orToReg fun _ => rfl,
    orRegSpec_of_orToReg fun _ => rfl, orRegSpec_of_orToReg fun _ => rfl, orRegSpec_of_orToReg fun _ => rfl⟩

theorem extractLsb'_high_append_low {a b : Nat} (x : BitVec (a + b)) : x.extractLsb' b a ++ x.extractLsb' 0 b = x :=
  (BitVec.extractLsb'_append_extractLsb'_eq_extractLsb' (Nat.zero_add b).symm).trans BitVec.extractLsb'_eq_self

theorem replaceByte_selectByte (high : Bool) (old : Dword) : replaceByte high old (selectByte high old) = old := by
  cases high with
  | false => exact extractLsb'_high_append_low (a := 24) (b := 8) old
  | true =>
    have hlow : old.extractLsb' 8 8 ++ old.extractLsb' 0 8 = old.extractLsb' 0 16 :=
      BitVec.extractLsb'_append_extractLsb'_eq_extractLsb' rfl
    rw [replaceByte, selectByte, if_pos rfl, if_pos rfl, hlow]
    exact extractLsb'_high_append_low (a := 16) (b := 16) old

/-- Writing back what a register holds changes nothing (R13). -/
@[simp] theorem State.setReg_getReg (s : State) (w : Width) (i : Reg) : s.setReg w i (s.getReg w i) = s := by
  cases w with
  | byte =>
    have hregs : s.regs.set8 i (s.regs.get8 i) = s.regs := by
      rw [Regs.set8_eq, Regs.get8_eq, replaceByte_selectByte, Regs.set32_get32]
    rw [State.setReg, State.getReg, hregs]
  | word =>
    have hregs : s.regs.set16 i (s.regs.get16 i) = s.regs :=
      (congrArg (s.regs.set32 i) (extractLsb'_high_append_low (a := 16) (b := 16) _)).trans (Regs.set32_get32 ..)
    rw [State.setReg, State.getReg, hregs]
  | dword => rw [State.setReg, State.getReg, Regs.set32_get32]

@[simp] theorem State.getReg_setReg_same (s : State) (w : Width) (i : Reg) (v : BitVec w.bits) :
    (s.setReg w i v).getReg w i = v := by
  cases w with
  | byte => exact (Regs.get8_set8 s.regs i i v).trans (if_pos rfl)
  | word => exact State.getReg_setReg_word s i v
  | dword => exact State.getReg_setReg_dword s i v

/-- The OR of a register with itself tests it (R121). -/
theorem OrRegSpec.self (h : OrRegSpec w r (fun s => s.getReg w r) len run) (hadv : s.canAdvance len) :
    ∃ t, run s = .next t ∧ t.regs = s.regs ∧ t.eflags.ZF = decide (s.getReg w r = 0) ∧
      t.eflags.SF = (s.getReg w r).getLsbD (w.bits - 1) := by
  obtain ⟨t, hrun, hregs, ⟨⟨-, -, hsf, hzf, -⟩, -⟩, -⟩ := h s hadv
  rw [BitVec.or_self] at hregs hsf hzf
  exact ⟨t, hrun, by rw [hregs, State.setReg_getReg], Bool.eq_iff_iff.mpr (by rw [hzf, decide_eq_true_iff]), hsf⟩

/-- Settles O27: writing back `r OR r` is writing back `r`. -/
theorem orWithItselfTests : Obligations.OrWithItselfTests := by
  intro p r s hadv
  obtain ⟨hbyte, hword, hdword, -⟩ := orRegisterToRegisterCompletes p r r
  exact ⟨hbyte.self hadv, hword.self hadv, hdword.self hadv⟩

/-! Sign-extended immediates (R87, R113, R114). -/

/-- From bit 7 on a sign-extended byte repeats its sign. -/
theorem getLsbD_signExtend_of_seven_le {k i : Nat} (imm : Byte) (hlo : 7 ≤ i) (hi : i < k) :
    (imm.signExtend k).getLsbD i = imm.msb := by
  rw [BitVec.getLsbD_signExtend, decide_eq_true hi, Bool.true_and, BitVec.msb_eq_getLsbD_last]
  split
  · obtain rfl : i = 8 - 1 := by omega
    rfl
  · rfl

/-- What a negative and a nonnegative sign-extended immediate leave above bit 7, and above bit 6, of the destination. -/
theorem OrRegSpec.signExtended {imm : Byte} (h : OrRegSpec w r (fun _ => imm.signExtend w.bits) len run)
    (hadv : s.canAdvance len) :
    ∃ t, run s = .next t ∧
      (0x80 ≤ imm.toNat → (∀ n, 8 + n ≤ w.bits → (t.getReg w r).extractLsb' 8 n = BitVec.allOnes n) ∧
        t.eflags.SF = true ∧ t.eflags.ZF = false) ∧
      (imm.toNat < 0x80 → ∀ n, 7 + n ≤ w.bits → (t.getReg w r).extractLsb' 7 n = (s.getReg w r).extractLsb' 7 n) := by
  obtain ⟨t, hrun, hregs, ⟨⟨-, -, hsf, hzf, -⟩, -⟩, -⟩ := h s hadv
  have hdest : t.getReg w r = s.getReg w r ||| imm.signExtend w.bits := by
    rw [State.getReg_congr hregs, State.getReg_setReg_same]
  have hbit {i : Nat} (hlo : 7 ≤ i) (hi : i < w.bits) : (t.getReg w r).getLsbD i = ((s.getReg w r).getLsbD i || imm.msb) := by
    rw [hdest, BitVec.getLsbD_or, getLsbD_signExtend_of_seven_le imm hlo hi]
  have hbits : 8 ≤ w.bits := by cases w <;> decide
  refine ⟨t, hrun, fun hneg => ?_, fun hpos n hn => ?_⟩
  · have hmsb : imm.msb = true := by rw [BitVec.msb_eq_decide]; exact decide_eq_true hneg
    have htop : (t.getReg w r).getLsbD (w.bits - 1) = true := by rw [hbit (by omega) (by omega), hmsb, Bool.or_true]
    rw [← hdest] at hsf hzf
    refine ⟨fun n hn => ?_, hsf.trans htop, ?_⟩
    · apply BitVec.eq_of_getLsbD_eq
      intro i hi
      rw [BitVec.getLsbD_extractLsb', hbit (by omega) (by omega), hmsb, BitVec.getLsbD_allOnes, Bool.or_true, Bool.and_true]
    · rw [Bool.eq_false_iff, Ne, hzf]
      intro hzero
      simp [hzero] at htop
  · have hmsb : imm.msb = false := by rw [BitVec.msb_eq_decide]; exact decide_eq_false (Nat.not_le.mpr hpos)
    apply BitVec.eq_of_getLsbD_eq
    intro i hi
    rw [BitVec.getLsbD_extractLsb', BitVec.getLsbD_extractLsb', hbit (by omega) (by omega), hmsb, Bool.or_false]

/-- Settles O28, at the two widths opcode 83h has. -/
theorem signExtendedImmediateFillsHighBits : Obligations.SignExtendedImmediateFillsHighBits := by
  intro p r imm s hadv
  obtain ⟨-, -, -, hword, hdword⟩ := orImmediateToRegisterCompletes p r
  obtain ⟨t, ht, htneg, htpos⟩ := (hword imm).signExtended hadv
  obtain ⟨u, hu, huneg, hupos⟩ := (hdword imm).signExtended hadv
  refine ⟨t, u, ht, hu, fun hneg => ?_, fun hpos => ⟨htpos hpos 9 (by decide), hupos hpos 25 (by decide)⟩⟩
  obtain ⟨htbits, htsf, htzf⟩ := htneg hneg
  obtain ⟨hubits, husf, huzf⟩ := huneg hneg
  exact ⟨htbits 8 (by decide), htsf, htzf, hubits 24 (by decide), husf, huzf⟩

end Sys2Proof.Machine

namespace Sys2Proof.Machine

variable {α β : Type} {s t : State} {e : Exc} {P : Exc → Prop} {len : Nat} {w : Width} {p : Prefixes}

/-! Which exceptions an operation can raise. -/

/-- Every exception the operation raises satisfies `P`. -/
structure Access.Raises (m : Access α) (P : Exc → Prop) : Prop where
  raised : ∀ e, m = .raised e → P e

theorem Access.Raises.ok (a : α) (s : State) : (Access.ok a s).Raises P := ⟨fun _ h => nomatch h⟩

theorem Access.Raises.refused (r : Refusal) : (Access.refused r : Access α).Raises P := ⟨fun _ h => nomatch h⟩

theorem Access.Raises.check {c : Except Exc α} (h : ∀ e, c = .error e → P e) : (Access.check c s).Raises P :=
  ⟨fun e he => h e (Access.check_eq_raised.mp he)⟩

theorem Access.Raises.throw (h : P e) : (Access.raised e : Access α).Raises P := ⟨by rintro _ ⟨⟩; exact h⟩

theorem Access.Raises.andThen {m : Access α} {f : α → State → Access β} (hm : m.Raises P) (hf : ∀ a t, (f a t).Raises P) :
    (m.andThen f).Raises P := by
  refine ⟨fun e h => ?_⟩
  rcases Access.andThen_eq_raised.mp h with h | ⟨a, t, -, h⟩
  · exact hm.raised e h
  · exact (hf a t).raised e h

theorem State.advance_raises (s : State) (len : Nat) : (s.advance len).Raises P := by
  unfold State.advance
  split
  · exact .refused _
  · exact .ok ..

theorem State.ioWrite_raises (s : State) (port : Half) (w : Width) (v : BitVec w.bits) : (s.ioWrite port w v).Raises P := by
  unfold State.ioWrite
  split
  · exact .refused _
  · exact .ok ..

theorem State.finishOr_raises {k : Nat} (s : State) (r : BitVec k) (len : Nat) : (s.finishOr r len).Raises P :=
  State.advance_raises ..

theorem State.orToReg_raises (s : State) (w : Width) (dst : Reg) (src : BitVec w.bits) (len : Nat) :
    (s.orToReg w dst src len).Raises P := State.finishOr_raises ..

/-- An instruction whose operation raises no exception ends in no fault. -/
theorem State.conclude_ne_fault {m : Access Unit} (hm : m.Raises fun _ => False) (f : Fault) : s.conclude m ≠ .fault f := by
  cases m with
  | ok a t => exact fun h => nomatch h
  | raised e => exact (hm.raised e rfl).elim
  | refused r => exact fun h => nomatch h

/-- Settles O29: all these forms are one operation on registers, which can only be refused. -/
theorem orWithoutMemoryNeverFaults : Obligations.OrWithoutMemoryNeverFaults := by
  intro p r q b h v s f
  have hforms : ∀ i ∈ orRegisterForms p r q b h v, exec i s ≠ .fault f := by
    intro i hi
    obtain ⟨w, dst, src, hexec⟩ := exec_of_mem_orRegisterForms hi s
    rw [hexec]
    exact State.conclude_ne_fault (State.orToReg_raises ..) f
  simpa [orRegisterForms] using hforms

/-! The exceptions of each mode (R103 to R105, R163, R170). -/

/-- The exceptions the mode of `s` has. -/
def State.MayRaise (s : State) (e : Exc) : Prop :=
  match s.mode with
  | .real => e = .interrupt13 ∨ (e = .interrupt12 ∧ s.launch.realSsVector = .v12)
  | .v86 => e = .gp0 ∨ (∃ code lin, e = .pf code lin) ∨ (e = .ss0 ∧ s.launch.realSsVector = .v12)
  | .prot => e = .gp0 ∨ e = .ss0 ∨ ∃ code lin, e = .pf code lin

theorem State.mayRaise_gp0 (hmode : s.mode ≠ .real) : s.MayRaise .gp0 := by
  unfold State.MayRaise
  cases hm : s.mode with
  | real => exact absurd hm hmode
  | prot | v86 => exact .inl rfl

theorem State.mayRaise_pf (hmode : s.mode ≠ .real) (code : Half) (lin : Dword) : s.MayRaise (.pf code lin) := by
  unfold State.MayRaise
  cases hm : s.mode with
  | real => exact absurd hm hmode
  | prot => exact .inr (.inr ⟨code, lin, rfl⟩)
  | v86 => exact .inr (.inl ⟨code, lin, rfl⟩)

/-- A limit violation outside protected mode (R47, C10). -/
theorem State.mayRaise_limitExc (hmode : s.mode ≠ .prot) (seg : SegReg) : s.MayRaise (s.limitExc seg) := by
  by_cases h12 : s.launch.realSsVector = .v12 ∧ seg = .ss
  · obtain ⟨h12, rfl⟩ := h12
    rw [State.limitExc_ss_of_ne_prot hmode h12, State.MayRaise]
    cases hm : s.mode with
    | prot => exact absurd hm hmode
    | real => exact .inr ⟨rfl, h12⟩
    | v86 => exact .inr (.inr ⟨rfl, h12⟩)
  · have h13 : s.launch.realSsVector = .v13 ∨ seg ≠ .ss := by
      cases hv : s.launch.realSsVector with
      | v13 => exact .inl rfl
      | v12 => exact .inr fun hss => h12 ⟨hv, hss⟩
    rw [State.limitExc_of_ne_prot hmode h13, State.MayRaise]
    cases hm : s.mode with
    | prot => exact absurd hm hmode
    | real | v86 => exact .inl rfl

theorem State.MayRaise.of_onlyMarks (h : OnlyMarks s t) (he : t.MayRaise e) : s.MayRaise e := by
  rwa [h.eq_with_mem] at he

/-- In a sequence whose first operation sets A and D bits at most, each operation may raise what its own state may. -/
theorem Access.Raises.andThen_of_marksOnly {m : Access α} {f : α → State → Access β} (hm : m.Raises s.MayRaise)
    (hmarks : m.MarksOnly s) (hf : ∀ a t, (f a t).Raises t.MayRaise) : (m.andThen f).Raises s.MayRaise := by
  refine ⟨fun e h => ?_⟩
  rcases Access.andThen_eq_raised.mp h with h | ⟨a, t, hok, h⟩
  · exact hm.raised e h
  · exact ((hf a t).raised e h).of_onlyMarks (hmarks a t hok).1

theorem State.segCheck_mayRaise {seg : SegReg} {off : Dword} {kind : AccessKind}
    (h : s.segCheck seg off w.bytes kind = .error e) : s.MayRaise e := by
  by_cases hmode : s.mode = .prot
  · rw [State.segCheck_of_prot hmode] at h
    rcases State.segCheckProt_eq_error h with rfl | ⟨rfl, -⟩
    · exact State.mayRaise_gp0 (by rw [hmode]; decide)
    · rw [State.MayRaise, hmode]
      exact .inr (.inl rfl)
  · rw [State.segCheck_of_ne_prot hmode, State.segCheckReal] at h
    split at h
    · injection h with h
      exact h ▸ State.mayRaise_limitExc hmode seg
    · exact nomatch h

/-- Translation raises page faults alone, and only with paging on, which real-address mode has not (R49, R173). -/
theorem State.pageTranslate_raises (s : State) (lin : Dword) (kind : AccessKind) (user : Bool) :
    (s.pageTranslate lin kind user).Raises s.MayRaise := by
  cases hp : s.paging with
  | false =>
    rw [State.pageTranslate_of_unpaged hp]
    exact .ok ..
  | true =>
    have hmode : s.mode ≠ .real := fun hreal => absurd (hp.symm.trans (State.paging_of_real hreal)) (by decide)
    have hfault (present : Bool) : (Access.raised (s.pageFault present kind user lin) : Access Dword).Raises s.MayRaise :=
      .throw (State.mayRaise_pf hmode ..)
    rw [State.pageTranslate_of_paged hp]
    split
    · exact hfault false
    split
    · exact hfault false
    split
    · exact hfault true
    · exact .ok ..

theorem State.translateAll_raises (s : State) (lin : Dword) (kind : AccessKind) (user : Bool) (n : Nat) :
    (s.translateAll lin kind user n).Raises s.MayRaise := by
  induction n generalizing s lin with
  | zero => exact .ok ..
  | succ n ih =>
    exact (s.pageTranslate_raises lin kind user).andThen_of_marksOnly (s.pageTranslate_marks lin kind user) fun _ t =>
      (ih t (lin + 1)).andThen fun _ _ => .ok ..

theorem State.openOperand_raises (s : State) (seg : SegReg) (off : Dword) (w : Width) (kind : AccessKind) :
    (s.openOperand seg off w kind).Raises s.MayRaise :=
  (Access.Raises.check fun _ => State.segCheck_mayRaise).andThen_of_marksOnly (.check s _) fun lin t =>
    t.translateAll_raises lin kind t.user w.bytes

theorem State.memRead_raises (s : State) (seg : SegReg) (off : Dword) (w : Width) :
    (s.memRead seg off w).Raises s.MayRaise := (s.openOperand_raises seg off w .read).andThen fun _ _ => .ok ..

theorem State.memUpdate_raises (s : State) (seg : SegReg) (off : Dword) (w : Width) (len : Nat)
    (f : BitVec w.bits → BitVec w.bits) : (s.memUpdate seg off w len f).Raises s.MayRaise := by
  refine (s.openOperand_raises seg off w .write).andThen fun pas t => ?_
  cases t.storeRefusal len pas with
  | some r => exact .refused r
  | none => exact .ok ..

theorem State.readLinear16_raises (s : State) (lin : Dword) : (s.readLinear16 lin).Raises s.MayRaise :=
  (s.translateAll_raises lin .read false 2).andThen fun _ _ => .ok ..

theorem State.ioPermission_raises (s : State) (port : Half) (n : Nat) : (s.ioPermission port n).Raises s.MayRaise := by
  unfold State.ioPermission
  split
  · exact .ok ..
  · refine (s.readLinear16_raises _).andThen_of_marksOnly (s.readLinear16_marks _) fun iobase t => ?_
    dsimp only
    split
    · exact .ok ..
    · exact (t.readLinear16_raises _).andThen fun _ _ => .ok ..

/-- The permission check raises #GP(0) where the bits are consulted, which is never in real-address mode (R132). -/
theorem State.ioCheck_raises (s : State) (port : Half) (n : Nat) : (s.ioCheck port n).Raises s.MayRaise := by
  unfold State.ioCheck
  split
  · rename_i hconsults
    have hmode : s.mode ≠ .real := fun hreal => by simp [State.ioConsults, State.pe_of_real hreal] at hconsults
    refine (s.ioPermission_raises port n).andThen fun permitted t => ?_
    split
    · exact .ok ..
    · exact .throw (State.mayRaise_gp0 hmode)
  · exact .ok ..

/-! What each shape of instruction may raise (R106, R134, R155, R164). -/

theorem State.orToRm_raises (s : State) (w : Width) (p : Prefixes) (rm : RM) (src : BitVec w.bits) (len : Nat) :
    (s.orToRm w p rm src len).Raises s.MayRaise := by
  cases rm with
  | reg d => exact State.orToReg_raises ..
  | mem a => exact (s.memUpdate_raises _ _ w len _).andThen fun _ _ => State.finishOr_raises ..

theorem State.orFromRm_raises (s : State) (w : Width) (p : Prefixes) (dst : Reg) (rm : RM) (len : Nat) :
    (s.orFromRm w p dst rm len).Raises s.MayRaise := by
  cases rm with
  | reg r => exact State.orToReg_raises ..
  | mem a => exact (s.memRead_raises _ _ w).andThen fun _ _ => State.orToReg_raises ..

theorem State.outTo_raises (s : State) (port : Half) (w : Width) (v : BitVec w.bits) (len : Nat) :
    (s.outTo port w v len).Raises s.MayRaise :=
  (s.ioCheck_raises port w.bytes).andThen fun _ _ => (State.ioWrite_raises ..).andThen fun _ _ => State.advance_raises ..

theorem State.outsItem_raises (s : State) (w : Width) (p : Prefixes) : (s.outsItem w p).Raises s.MayRaise :=
  (s.ioCheck_raises s.portDx w.bytes).andThen_of_marksOnly (s.ioCheck_marks s.portDx w.bytes) fun _ t =>
    (t.memRead_raises _ _ w).andThen fun _ _ => (State.ioWrite_raises ..).andThen fun _ _ => .ok ..

theorem State.outs_raises (s : State) (w : Width) (p : Prefixes) (len : Nat) : (s.outs w p len).Raises s.MayRaise :=
  (s.outsItem_raises w p).andThen fun _ _ => State.advance_raises ..

theorem State.repOuts_raises (s : State) (w : Width) (p : Prefixes) (len : Nat) : (s.repOuts w p len).Raises s.MayRaise := by
  unfold State.repOuts
  split
  · exact State.advance_raises ..
  · refine (s.outsItem_raises w p).andThen fun _ t => ?_
    dsimp only
    split
    · exact State.advance_raises ..
    · exact .ok ..

/-- Every instruction's outcome is concluded from an operation that raises no exception but those of the mode. -/
theorem exec_eq_conclude_raises (i : Instr) (s : State) : ∃ m : Access Unit, exec i s = s.conclude m ∧ m.Raises s.MayRaise := by
  cases i with
  | orAlImm8 p imm | orAxImm16 p imm | orEaxImm32 p imm => exact ⟨_, rfl, State.orToReg_raises ..⟩
  | orRm8Imm8 p rm | orRm16Imm16 p rm | orRm32Imm32 p rm | orRm16Imm8 p rm | orRm32Imm8 p rm | orRm8R8 p rm | orRm16R16 p rm
  | orRm32R32 p rm => exact ⟨_, rfl, State.orToRm_raises ..⟩
  | orR8Rm8 p r rm | orR16Rm16 p r rm | orR32Rm32 p r rm => exact ⟨_, rfl, State.orFromRm_raises ..⟩
  | outImm8Al p | outImm8Ax p | outImm8Eax p | outDxAl p | outDxAx p | outDxEax p => exact ⟨_, rfl, State.outTo_raises ..⟩
  | outsDxRm8 p | outsDxRm16 p | outsDxRm32 p | outsb p | outsw p | outsd p => exact ⟨_, rfl, State.outs_raises ..⟩
  | repOutsb p | repOutsw p | repOutsd p => exact ⟨_, rfl, State.repOuts_raises ..⟩

/-- The exception a run ends in is the one taken (R182). -/
theorem State.takeException_eq_exception {e' : Exc} (h : s.takeException e' = .fault (.exception e t)) : e' = e := by
  unfold State.takeException at h
  split at h
  · split at h <;> exact nomatch h
  · injection h with h
    injection h

theorem State.conclude_eq_exception {m : Access Unit} (h : s.conclude m = .fault (.exception e t)) : m = .raised e := by
  cases m with
  | ok a u => exact nomatch h
  | raised e' => rw [State.takeException_eq_exception h]
  | refused r => exact nomatch h

theorem exec_exception_mayRaise {i : Instr} (h : exec i s = .fault (.exception e t)) : s.MayRaise e := by
  obtain ⟨m, hexec, hraises⟩ := exec_eq_conclude_raises i s
  exact hraises.raised e (State.conclude_eq_exception (hexec ▸ h))

/-- Settles O55: each clause reads `MayRaise` at its mode. -/
theorem exceptionsByMode : Obligations.ExceptionsByMode := by
  intro i s t e h
  have hmay := exec_exception_mayRaise h
  rw [State.MayRaise] at hmay
  refine ⟨fun hmode => ?_, fun hmode => ?_, fun hmode => ?_⟩
  all_goals rwa [hmode] at hmay

end Sys2Proof.Machine

namespace Sys2Proof.Machine

variable {s t : State} {e : Exc} {len : Nat} {w : Width} {p : Prefixes} {i : Instr}

/-! Where an operation raises, the instruction traps (R181, R182). -/

theorem trapsWith_of_raised (hd : s.launch.deliver = .terminal) (h : exec i s = s.conclude (.raised e)) : TrapsWith i s e :=
  h.trans (State.takeException_terminal hd e)

theorem State.orToMem_of_raised {seg : SegReg} {off : Dword} (h : s.openOperand seg off w .write = .raised e)
    (src : BitVec w.bits) (len : Nat) : s.orToMem w seg off src len = .raised e := by
  rw [State.orToMem, State.memUpdate, h, Access.andThen_raised, Access.andThen_raised]

theorem State.orFromRm_mem_of_raised {a : Addr} (h : s.openOperand (p.segFor a.defaultSeg) (s.offsetOf a) w .read = .raised e)
    (dst : Reg) (len : Nat) : s.orFromRm w p dst (.mem a) len = .raised e := by
  rw [State.orFromRm, State.memRead, h, Access.andThen_raised, Access.andThen_raised]

theorem State.outTo_of_raised {port : Half} (h : s.ioCheck port w.bytes = .raised e) (v : BitVec w.bits) (len : Nat) :
    s.outTo port w v len = .raised e := by rw [State.outTo, h, Access.andThen_raised]

theorem State.outsItem_of_ioCheck_raised (h : s.ioCheck s.portDx w.bytes = .raised e) : s.outsItem w p = .raised e := by
  rw [State.outsItem, h, Access.andThen_raised]

theorem State.outsItem_of_memRead_raised (hcheck : s.ioCheck s.portDx w.bytes = .ok () t)
    (h : t.memRead (p.segFor .ds) (s.sourceIndex p) w = .raised e) : s.outsItem w p = .raised e := by
  rw [State.outsItem, hcheck, Access.andThen_ok, h, Access.andThen_raised]

/-- OUTS traps where its item does, and so does REP OUTS with a nonzero count (R162, R165). -/
theorem trapsWith_of_outsItem_raised {f : Width × Instr} (hf : f ∈ outsForms p ++ repOutsForms p)
    (hcount : f ∈ repOutsForms p → s.repCount p ≠ 0) (hd : s.launch.deliver = .terminal)
    (h : s.outsItem f.1 p = .raised e) : TrapsWith f.2 s e := by
  apply trapsWith_of_raised hd
  rcases List.mem_append.mp hf with hf | hf
  · rw [exec_of_mem_outsForms hf, State.outs, h, Access.andThen_raised]
  · rw [exec_of_mem_repOutsForms hf, State.repOuts, if_neg (hcount hf), h, Access.andThen_raised]

/-- Settles O59: the operation that raises is the first of the instruction, or comes after a permission check that passed. -/
theorem operandExceptionsTrap : Obligations.OperandExceptionsTrap := by
  intro p s e hd
  refine ⟨fun a r b h v f hf hraised => ?_, fun a r f hf hraised => ?_, fun n f hf hraised => ?_, fun f hf hraised => ?_,
    fun f hf hcount => ⟨fun hraised => ?_, fun s1 hcheck hraised => ?_⟩⟩
  · obtain ⟨src, hexec⟩ := exec_of_mem_orMemoryForms hf s
    exact trapsWith_of_raised hd (by rw [hexec, State.orToMem_of_raised hraised])
  · exact trapsWith_of_raised hd (by rw [exec_of_mem_orLoadForms hf, State.orFromRm_mem_of_raised hraised])
  · obtain ⟨v, hexec⟩ := exec_of_mem_outImmForms hf s
    exact trapsWith_of_raised hd (by rw [hexec, State.outTo_of_raised hraised])
  · obtain ⟨v, hexec⟩ := exec_of_mem_outDxForms hf s
    exact trapsWith_of_raised hd (by rw [hexec, State.outTo_of_raised hraised])
  · exact trapsWith_of_outsItem_raised hf hcount hd (State.outsItem_of_ioCheck_raised hraised)
  · exact trapsWith_of_outsItem_raised hf hcount hd (State.outsItem_of_memRead_raised hcheck hraised)

end Sys2Proof.Machine

/-! PROOFS. OUT (41_out.md): when the I/O permission bits are consulted (R132), what OUT does where the check passes (R134 to R140), and
#GP(0) where a bit denies the port (R132, R154). -/

namespace Sys2Proof.Machine

variable {s t u : State} {len n : Nat} {port : Half} {w : Width} {p : Prefixes} {v : BitVec w.bits} {P : Exc → Prop}
  {portOf : State → Half} {value : State → BitVec w.bits} {run : State → Host.Outcome State Fault Refusal}

/-! When the permission bits are consulted (R132). -/

theorem State.ioConsults_eq_true :
    s.ioConsults = true ↔ s.pe = true ∧ (s.eflags.VM = true ∨ s.eflags.IOPL.toNat < s.cpl.toNat) := by
  simp [State.ioConsults, BitVec.lt_def]

theorem State.ioConsults_eq_false :
    s.ioConsults = false ↔ s.pe = false ∨ (s.eflags.VM = false ∧ s.cpl.toNat ≤ s.eflags.IOPL.toNat) := by
  rw [← Bool.not_eq_true, State.ioConsults_eq_true]
  simp only [not_and_or, not_or, Bool.not_eq_true, not_lt]

theorem State.ioCheck_of_not_consulted (h : s.ioConsults = false) (port : Half) (n : Nat) : s.ioCheck port n = .ok () s := by
  simp [State.ioCheck, h]

theorem State.ioCheck_of_consulted {b : Bool} (h : s.ioConsults = true) (hperm : s.ioPermission port n = .ok b t) :
    s.ioCheck port n = if b = true then .ok () t else .raised .gp0 := by
  rw [State.ioCheck, if_pos h, hperm, Access.andThen_ok]

theorem State.ioCheck_of_denied (h : s.ioConsults = true) (hperm : s.ioPermission port n = .ok false t) :
    s.ioCheck port n = .raised .gp0 := State.ioCheck_of_consulted h hperm

/-- Settles O42: VM decides which of the two situations it is. -/
theorem permissionConsultedExactlyWhen : Obligations.PermissionConsultedExactlyWhen := by
  intro s
  refine ⟨?_, fun port n h => State.ioCheck_of_not_consulted h port n, fun port n b s1 => State.ioCheck_of_consulted⟩
  rw [State.ioConsults_eq_true]
  cases s.eflags.VM <;> simp

/-! What OUT does where the check passes (R134). -/

/-- The state an OUT leaves whose check left `s`: the event appended and EIP advanced. -/
def State.afterOut (s : State) (port : Half) (w : Width) (v : BitVec w.bits) (len : Nat) : State :=
  { s with io := s.io ++ [⟨port, w, v.setWidth 32⟩], eip := s.eip + BitVec.ofNat 32 len }

/-- Once the check has passed, OUT completes exactly when the port lies inside the I/O space and EIP can advance. -/
theorem State.outTo_eq_ok (hcheck : s.ioCheck port w.bytes = .ok () t) :
    s.outTo port w v len = .ok () u ↔
      port.toNat + w.bytes ≤ 65536 ∧ s.canAdvance len ∧ u = t.afterOut port w v len := by
  have heip : t.eip = s.eip := (State.ioCheck_marks s _ _ _ _ hcheck).1.eip
  rw [State.outTo, hcheck, Access.andThen_ok, State.canAdvance, ← heip]
  by_cases hport : port.toNat + w.bytes ≤ 65536
  · rw [State.ioWrite_of_inSpace hport, Access.andThen_ok, State.advance_eq_ok, and_iff_right hport]
    rfl
  · rw [State.ioWrite_of_pastTop (not_le.mp hport), Access.andThen_refused]
    exact ⟨nofun, fun ⟨hin, _⟩ => absurd hin hport⟩

/-- Once the check has passed, OUT raises nothing: its port write and its advance can only be refused (R31, D20). -/
theorem State.outTo_raises_of_ioCheck (hcheck : s.ioCheck port w.bytes = .ok () t) : (s.outTo port w v len).Raises P := by
  rw [State.outTo, hcheck, Access.andThen_ok]
  exact (State.ioWrite_raises ..).andThen fun _ _ => State.advance_raises ..

theorem OnlyMarks.eflags (h : OnlyMarks s t) : t.eflags = s.eflags := by rw [h.eq_with_mem]

theorem outSpec_of_outTo (hrun : ∀ s, run s = s.conclude (s.outTo (portOf s) w (value s) len)) : OutSpec w portOf value len run := by
  intro s s1 hcheck hport hadv
  have hmarks := (State.ioCheck_marks s _ _ _ _ hcheck).1
  refine ⟨s1.afterOut (portOf s) w (value s) len, ?_, ?_, ?_, hmarks.regs, hmarks.eflags, .of_fixedPart_eq hmarks.fixedPart,
    fun _ => rfl, hmarks⟩
  · rw [hrun, (State.outTo_eq_ok hcheck).mpr ⟨hport, hadv, rfl⟩, State.conclude_ok]
  · rw [State.afterOut, hmarks.io]
  · rw [State.afterOut, hmarks.eip]

/-- Settles O40: each form is an OUT of a port and a value; DX computes to the low half of EDX (R11). -/
theorem outWritesItsPort : Obligations.OutWritesItsPort := fun _ =>
  ⟨fun _ => outSpec_of_outTo fun _ => rfl, fun _ => outSpec_of_outTo fun _ => rfl, fun _ => outSpec_of_outTo fun _ => rfl,
    outSpec_of_outTo fun _ => rfl, outSpec_of_outTo fun _ => rfl, outSpec_of_outTo fun _ => rfl⟩

/-! OUT where the bits are not consulted (R132, R141). -/

/-- Where the bits are not consulted the two bounds alone decide whether OUT completes, and nothing is marked. -/
theorem State.conclude_outTo_eq_next (h : s.ioConsults = false) :
    s.conclude (s.outTo port w v len) = .next t ↔
      port.toNat + w.bytes ≤ 65536 ∧ s.canAdvance len ∧ t = s.afterOut port w v len := by
  have hcheck := State.ioCheck_of_not_consulted h port w.bytes
  have hraises : (s.outTo port w v len).Raises fun _ => False := State.outTo_raises_of_ioCheck hcheck
  rw [State.conclude_eq_next, State.outTo_eq_ok hcheck, or_iff_left]
  rintro ⟨e, he, -⟩
  exact hraises.raised e he

theorem outUncheckedSpec_of_outTo (hrun : ∀ s, run s = s.conclude (s.outTo (portOf s) w (value s) len)) :
    OutUncheckedSpec w portOf value len run := by
  intro s hunchecked hport hadv
  rw [hrun]
  exact (State.conclude_outTo_eq_next (State.ioConsults_eq_false.mpr hunchecked)).mpr ⟨hport, hadv, rfl⟩

/-- Settles O41: the next state is `afterOut` of the state before. -/
theorem outUncheckedCompletes : Obligations.OutUncheckedCompletes := fun _ =>
  ⟨fun _ => ⟨outUncheckedSpec_of_outTo fun _ => rfl, outUncheckedSpec_of_outTo fun _ => rfl, outUncheckedSpec_of_outTo fun _ => rfl⟩,
    outUncheckedSpec_of_outTo fun _ => rfl, outUncheckedSpec_of_outTo fun _ => rfl, outUncheckedSpec_of_outTo fun _ => rfl⟩

theorem State.conclude_outTo_ne_fault (h : s.ioConsults = false) (f : Fault) : s.conclude (s.outTo port w v len) ≠ .fault f :=
  State.conclude_ne_fault (State.outTo_raises_of_ioCheck (State.ioCheck_of_not_consulted h port w.bytes)) f

/-- Settles O43: the check passes, and the rest raises nothing. -/
theorem outNeverFaultsUnchecked : Obligations.OutNeverFaultsUnchecked := by
  intro p n s f hunchecked
  have h := State.ioConsults_eq_false.mpr hunchecked
  exact ⟨State.conclude_outTo_ne_fault h f, State.conclude_outTo_ne_fault h f, State.conclude_outTo_ne_fault h f,
    State.conclude_outTo_ne_fault h f, State.conclude_outTo_ne_fault h f, State.conclude_outTo_ne_fault h f⟩

/-- TR enters neither the conditions nor the next state of `conclude_outTo_eq_next`. -/
theorem State.conclude_outTo_with_tr (h : s.ioConsults = false) (tr : TaskRegister)
    (hnext : s.conclude (s.outTo port w v len) = .next t) :
    State.conclude { s with tr := tr } (State.outTo { s with tr := tr } port w v len) = .next { t with tr := tr } := by
  obtain ⟨hport, hadv, rfl⟩ := (State.conclude_outTo_eq_next h).mp hnext
  exact (State.conclude_outTo_eq_next (s := { s with tr := tr }) h).mpr ⟨hport, hadv, rfl⟩

/-- Settles O44: no form reads TR. -/
theorem outUncheckedIgnoresTaskRegister : Obligations.OutUncheckedIgnoresTaskRegister := fun _ _ _ _ tr h =>
  ⟨State.conclude_outTo_with_tr h tr, State.conclude_outTo_with_tr h tr, State.conclude_outTo_with_tr h tr,
    State.conclude_outTo_with_tr h tr, State.conclude_outTo_with_tr h tr, State.conclude_outTo_with_tr h tr⟩

/-! A denied port (R132, R141, R154, R165): the check is the first operation of each shape, so nothing has been written (R181). -/

theorem State.conclude_raised_gp0 (hd : s.launch.deliver = .terminal) : s.conclude (.raised .gp0) = .fault (.exception .gp0 s) :=
  State.takeException_terminal hd .gp0

theorem ioDeniedSpec_of_outTo (hrun : ∀ s, run s = s.conclude (s.outTo (portOf s) w (value s) len)) :
    IoDeniedSpec portOf w.bytes run := by
  intro s s1 hd hconsults hperm
  rw [hrun, State.outTo_of_raised (State.ioCheck_of_denied hconsults hperm), State.conclude_raised_gp0 hd]

theorem ioDeniedSpec_of_outs (hrun : ∀ s, run s = s.conclude (s.outs w p len)) : IoDeniedSpec State.portDx w.bytes run := by
  intro s s1 hd hconsults hperm
  rw [hrun, State.outs, State.outsItem_of_ioCheck_raised (State.ioCheck_of_denied hconsults hperm), Access.andThen_raised,
    State.conclude_raised_gp0 hd]

theorem State.conclude_repOuts_of_denied (hcount : s.repCount p ≠ 0) (hd : s.launch.deliver = .terminal)
    (hconsults : s.ioConsults = true) (hperm : s.ioPermission s.portDx w.bytes = .ok false t) :
    s.conclude (s.repOuts w p len) = .fault (.exception .gp0 s) := by
  rw [State.repOuts, if_neg hcount, State.outsItem_of_ioCheck_raised (State.ioCheck_of_denied hconsults hperm),
    Access.andThen_raised, State.conclude_raised_gp0 hd]

/-- Settles O45: the check raises in each of the three shapes. -/
theorem deniedPortRaisesGeneralProtection : Obligations.DeniedPortRaisesGeneralProtection := by
  intro p
  refine ⟨fun n => ⟨?_, ?_, ?_⟩, ?_, ?_, ?_, ?_, ?_, ?_, ?_, ?_, ?_, fun s s1 hcount hd hconsults => ⟨?_, ?_, ?_⟩⟩
  · exact ioDeniedSpec_of_outTo (w := .byte) fun _ => rfl
  · exact ioDeniedSpec_of_outTo (w := .word) fun _ => rfl
  · exact ioDeniedSpec_of_outTo (w := .dword) fun _ => rfl
  · exact ioDeniedSpec_of_outTo (w := .byte) fun _ => rfl
  · exact ioDeniedSpec_of_outTo (w := .word) fun _ => rfl
  · exact ioDeniedSpec_of_outTo (w := .dword) fun _ => rfl
  · exact ioDeniedSpec_of_outs (w := .byte) fun _ => rfl
  · exact ioDeniedSpec_of_outs (w := .word) fun _ => rfl
  · exact ioDeniedSpec_of_outs (w := .dword) fun _ => rfl
  · exact ioDeniedSpec_of_outs (w := .byte) fun _ => rfl
  · exact ioDeniedSpec_of_outs (w := .word) fun _ => rfl
  · exact ioDeniedSpec_of_outs (w := .dword) fun _ => rfl
  · exact State.conclude_repOuts_of_denied (w := .byte) hcount hd hconsults
  · exact State.conclude_repOuts_of_denied (w := .word) hcount hd hconsults
  · exact State.conclude_repOuts_of_denied (w := .dword) hcount hd hconsults

end Sys2Proof.Machine

/-! PROOFS. OUTS and its repetition (42_outs.md): how the source index and the count move (R151, R155, R164), one iteration of REP OUTS
(R164), and a whole repetition in real-address mode (R164, R165). -/

namespace Sys2Proof.Machine

variable {s t u : State} {len n : Nat} {w : Width} {p : Prefixes} {v : BitVec w.bits} {z : Size} {i j : Reg} {k : Dword}
  {run : State → Host.Outcome State Fault Refusal}

/-! Additions to a register at a size (R13, R155 step 8, R164). -/

/-- The 32-bit register after an addition at a size: modulo 2^16 with the upper half kept, or modulo 2^32. -/
def Size.addTo (z : Size) (x k : Dword) : Dword :=
  match z with
  | .s16 => x.extractLsb' 16 16 ++ (x.extractLsb' 0 16 + k.setWidth 16)
  | .s32 => x + k

/-- What an addition does to the state, said once for both sizes. -/
theorem State.addSized_eq (s : State) (z : Size) (i : Reg) (k : Dword) :
    s.addSized z i k = { s with regs := s.regs.set32 i (Size.addTo z (s.regs.get32 i) k) } := by cases z <;> rfl

@[simp] theorem Size.addTo_zero (z : Size) (x : Dword) : Size.addTo z x 0#32 = x := by
  cases z with
  | s16 => exact (congrArg _ (BitVec.add_zero _)).trans BitVec.extractLsb'_append_extractLsb'
  | s32 => exact BitVec.add_zero x

theorem Size.addTo_addTo (z : Size) (x k l : Dword) : Size.addTo z (Size.addTo z x k) l = Size.addTo z x (k + l) := by
  cases z with
  | s16 =>
    simp only [Size.addTo, BitVec.extractLsb'_append_eq_left, BitVec.extractLsb'_append_eq_right]
    rw [BitVec.setWidth_add _ _ (by decide), BitVec.add_assoc]
  | s32 => exact BitVec.add_assoc x k l

@[simp] theorem Regs.set32_set32_same (x : Regs) (i : Reg) (a b : Dword) : (x.set32 i a).set32 i b = x.set32 i b := by cases i <;> rfl

theorem Regs.set32_comm (x : Regs) (h : i ≠ j) (a b : Dword) : (x.set32 i a).set32 j b = (x.set32 j b).set32 i a := by
  revert h
  cases i <;> cases j <;> simp [Regs.set32]

@[simp] theorem State.addSized_zero (s : State) (z : Size) (i : Reg) : s.addSized z i 0#32 = s := by
  rw [State.addSized_eq, Size.addTo_zero, Regs.set32_get32]

theorem State.addSized_addSized_same (s : State) (z : Size) (i : Reg) (k l : Dword) :
    (s.addSized z i k).addSized z i l = s.addSized z i (k + l) := by
  simp only [State.addSized_eq, Regs.get32_set32_same, Regs.set32_set32_same, Size.addTo_addTo]

theorem State.addSized_comm (s : State) (z : Size) (h : i ≠ j) (k l : Dword) :
    (s.addSized z i k).addSized z j l = (s.addSized z j l).addSized z i k := by
  simp only [State.addSized_eq, Regs.get32_set32_other _ _ h, Regs.get32_set32_other _ _ h.symm, Regs.set32_comm _ h]

theorem State.get32_addSized_other (h : j ≠ i) : (s.addSized z i k).regs.get32 j = s.regs.get32 j := by
  rw [State.addSized_eq]
  exact Regs.get32_set32_other _ _ h

theorem setWidth_add_neg {x : Half} (h : k.toNat ≤ x.toNat) : (x + (-k).setWidth 16).setWidth 32 = x.setWidth 32 - k := by
  apply BitVec.eq_of_toNat_eq
  simp only [BitVec.toNat_setWidth, BitVec.toNat_add, BitVec.toNat_neg, BitVec.toNat_sub]
  omega

/-- A subtraction that does not borrow is exact at either size. -/
theorem State.getSized_addSized_neg (h : k.toNat ≤ (s.getSized z i).toNat) :
    (s.addSized z i (-k)).getSized z i = s.getSized z i - k := by
  cases z with
  | s16 =>
    rw [State.addSized, State.getSized, State.getReg_setReg_word]
    rw [State.getSized, BitVec.toNat_setWidth_of_le (by decide)] at h
    exact setWidth_add_neg h
  | s32 =>
    rw [State.addSized, State.getSized, State.getReg_setReg_dword]
    exact (BitVec.sub_eq_add_neg ..).symm

/-! The source index (R151, R155 steps 7 and 8). -/

theorem State.incDec_setWidth (s : State) (w : Width) :
    (s.incDec w).setWidth 16 = if s.eflags.DF = true then -BitVec.ofNat 16 w.bytes else BitVec.ofNat 16 w.bytes := by
  rw [State.incDec]
  split <;> cases w <;> rfl

theorem add_ite_neg {m : Nat} (c : Prop) [Decidable c] (a b : BitVec m) : a + (if c then -b else b) = if c then a - b else a + b := by
  split
  · rw [BitVec.sub_eq_add_neg]
  · rfl

/-- Settles O51: the index is read and moved at AddressSize, and `IncDec` has its sign from DF. -/
theorem sourceIndexMoves : Obligations.SourceIndexMoves := by
  intro s w p
  have hlow (x : Dword) : x.extractLsb' 0 16 = x.setWidth 16 := (BitVec.setWidth_eq_extractLsb' (by decide)).symm
  refine ⟨fun h => ⟨?_, ?_⟩, fun h => ⟨?_, ?_⟩⟩
  · rw [State.sourceIndex, h]
    exact congrArg (BitVec.setWidth 32) (hlow s.regs.esi)
  · rw [h, State.addSized_eq, Size.addTo, hlow, State.incDec_setWidth, add_ite_neg]
    rfl
  · rw [State.sourceIndex, h]
    rfl
  · rw [h, State.addSized_eq, Size.addTo, State.incDec, add_ite_neg]
    rfl

/-! OUTS without REP (R155). -/

/-- Settles O49. -/
theorem outsTransfersOneItem : Obligations.OutsTransfersOneItem := fun _ =>
  ⟨outsSpec_of_outs fun _ => rfl, outsSpec_of_outs fun _ => rfl, outsSpec_of_outs fun _ => rfl, outsSpec_of_outs fun _ => rfl,
    outsSpec_of_outs fun _ => rfl, outsSpec_of_outs fun _ => rfl⟩

/-! One iteration of REP OUTS (R164). -/

/-- The state one iteration leaves whose reads left `t`: the event appended, the index and the count moved, and EIP past the instruction
after the last item. -/
def State.afterIteration (s t : State) (w : Width) (p : Prefixes) (v : BitVec w.bits) (len : Nat) : State :=
  { t with
    regs := ((s.addSized (s.addressSize p) .esi (s.incDec w)).addSized (s.addressSize p) .ecx (-1)).regs
    io := s.io ++ [⟨s.portDx, w, v.setWidth 32⟩]
    eip := if s.repCount p = 1 then s.eip + BitVec.ofNat 32 len else s.eip }

/-- The count after an item is one less, so it is zero exactly after the last. -/
theorem State.repCount_afterItem_addSized (h : OnlyMarks s t) (hcount : s.repCount p ≠ 0) :
    ((s.afterItem t w p v).addSized (s.addressSize p) .ecx (-1)).repCount p = 0 ↔ s.repCount p = 1 := by
  have hsize := State.afterItem_addressSize (p := p) (v := v) h
  have hitem : (s.afterItem t w p v).getSized (s.addressSize p) .ecx = s.repCount p := by
    rw [← hsize]
    exact State.afterItem_repCount h
  have hle : (1 : Dword).toNat ≤ ((s.afterItem t w p v).getSized (s.addressSize p) .ecx).toNat := by
    rw [hitem]
    exact Nat.one_le_iff_ne_zero.mpr fun h0 => hcount (BitVec.eq_of_toNat_eq h0)
  rw [State.repCount, State.addSized_addressSize, hsize, State.getSized_addSized_neg hle, hitem, sub_eq_zero]

/-- The item and the count together, EIP not yet moved. -/
theorem State.afterItem_addSized (h : OnlyMarks s t) :
    (s.afterItem t w p v).addSized (s.addressSize p) .ecx (-1) =
      { t with
        regs := ((s.addSized (s.addressSize p) .esi (s.incDec w)).addSized (s.addressSize p) .ecx (-1)).regs
        io := s.io ++ [⟨s.portDx, w, v.setWidth 32⟩] } := by
  rw [← h.io, ← State.addSized_regs_congr (State.afterItem_regs (v := v) h)]
  simp only [State.afterItem, State.addSized_eq]

/-- With a nonzero count and an item that may be transferred, one iteration completes. -/
theorem State.repOuts_of_ready (hcount : s.repCount p ≠ 0) (hready : OutsReady w p s t u v) (hadv : s.canAdvance len) :
    s.repOuts w p len = .ok () (s.afterIteration u w p v len) := by
  have hmarks := hready.onlyMarks
  have hrun : s.repOuts w p len =
      if s.repCount p = 1 then ((s.afterItem u w p v).addSized (s.addressSize p) .ecx (-1)).advance len
      else .ok () ((s.afterItem u w p v).addSized (s.addressSize p) .ecx (-1)) := by
    simp only [State.repOuts, if_neg hcount, State.outsItem_of_ready hready, Access.andThen_ok,
      State.repCount_afterItem_addSized hmarks hcount]
  rw [hrun, State.afterItem_addSized hmarks, State.afterIteration]
  split
  · rw [State.advance_of_canAdvance (by rwa [State.canAdvance, hmarks.eip]), hmarks.eip]
  · rw [← hmarks.eip]

theorem State.afterIteration_outsItemDone (h : OnlyMarks s t) (len : Nat) :
    OutsItemDone w s t (s.afterIteration t w p v len) v :=
  ⟨rfl, h.eflags, .of_fixedPart_eq h.fixedPart, fun _ => rfl, h⟩

theorem repOutsSpec_of_repOuts (hrun : ∀ s, run s = s.conclude (s.repOuts w p len)) : RepOutsSpec w p len run := by
  refine ⟨fun s hcount hadv => ?_, fun s s1 s2 v hcount hready hadv => ?_⟩
  · rw [hrun, State.repOuts_of_count_zero hcount, State.advance_of_canAdvance hadv, State.conclude_ok]
  · refine ⟨s.afterIteration s2 w p v len, ?_, State.afterIteration_outsItemDone hready.onlyMarks len, rfl, rfl⟩
    rw [hrun, State.repOuts_of_ready hcount hready hadv, State.conclude_ok]

/-- Settles O52. -/
theorem repOutsOneIteration : Obligations.RepOutsOneIteration := fun _ =>
  ⟨repOutsSpec_of_repOuts fun _ => rfl, repOutsSpec_of_repOuts fun _ => rfl, repOutsSpec_of_repOuts fun _ => rfl⟩

/-! A whole REP OUTS in real-address mode (R164, R165). -/

/-- A chain of states, each the next of the one before, is a run. -/
theorem execTimes_of_chain {i : Instr} (f : Nat → State) (h : ∀ j < n, exec i (f j) = .next (f (j + 1))) :
    execTimes i n (f 0) = .next (f n) := by
  induction n generalizing f with
  | zero => rfl
  | succ n ih =>
    rw [execTimes, h 0 n.succ_pos]
    exact ih (fun j => f (j + 1)) fun j hj => h (j + 1) (Nat.succ_lt_succ hj)

/-- Item `j` of a repetition that starts at `s` in real-address mode (R47, R155, R164). -/
def State.itemValue (s : State) (w : Width) (p : Prefixes) (j : Nat) : BitVec w.bits :=
  s.readAt w (addrRange ((s.segs.get (p.segFor .ds)).base + s.itemOffset w p j) w.bytes)

/-- The index moved `n` times and the count `n` less. -/
def State.movedBy (s : State) (w : Width) (p : Prefixes) (n : Nat) : State :=
  (s.addSized (s.addressSize p) .esi (BitVec.ofNat 32 n * s.incDec w)).addSized (s.addressSize p) .ecx (-(BitVec.ofNat 32 n))

/-- The state that `n` iterations from `s` leave in real-address mode, EIP behind the instruction when `n` is the whole count. -/
def State.iterated (s : State) (w : Width) (p : Prefixes) (len n : Nat) : State :=
  { s with
    regs := (s.movedBy w p n).regs
    io := s.io ++ (List.range n).map fun j => ⟨s.portDx, w, (s.itemValue w p j).setWidth 32⟩
    eip := if n = (s.repCount p).toNat then s.eip + BitVec.ofNat 32 len else s.eip }

theorem State.iterated_zero (hcount : s.repCount p ≠ 0) : s.iterated w p len 0 = s := by
  have hne : 0 ≠ (s.repCount p).toNat := fun h => hcount (BitVec.eq_of_toNat_eq h.symm)
  have hmoved : s.movedBy w p 0 = s := by
    rw [State.movedBy, BitVec.zero_mul, State.addSized_zero, BitVec.neg_zero, State.addSized_zero]
  simp only [State.iterated, hmoved, List.range_zero, List.map_nil, List.append_nil, if_neg hne]

theorem State.movedBy_succ (s : State) (w : Width) (p : Prefixes) (n : Nat) :
    ((s.movedBy w p n).addSized (s.addressSize p) .esi (s.incDec w)).addSized (s.addressSize p) .ecx (-1) =
      s.movedBy w p (n + 1) := by
  have hindex : BitVec.ofNat 32 n * s.incDec w + s.incDec w = BitVec.ofNat 32 (n + 1) * s.incDec w := by
    rw [BitVec.ofNat_add, BitVec.add_mul, BitVec.one_mul]
  have hcount : -(BitVec.ofNat 32 n) + -1 = -(BitVec.ofNat 32 (n + 1)) := by
    rw [BitVec.ofNat_add, BitVec.neg_add, BitVec.sub_eq_add_neg]
    rfl
  rw [State.movedBy, State.addSized_comm (i := .ecx) (j := .esi) _ _ (by decide), State.addSized_addSized_same,
    State.addSized_addSized_same, hindex, hcount]
  rfl

/-! What a state between two iterations shows of the state at the start. -/

theorem State.iterated_eip (hn : n < (s.repCount p).toNat) : (s.iterated w p len n).eip = s.eip := if_neg hn.ne

theorem State.iterated_addressSize : (s.iterated w p len n).addressSize p = s.addressSize p :=
  State.addressSize_congr (State.defaultSize_congr rfl rfl rfl) p

theorem State.iterated_portDx : (s.iterated w p len n).portDx = s.portDx := by
  have hedx : (s.movedBy w p n).regs.get32 .edx = s.regs.get32 .edx := by
    rw [State.movedBy, State.get32_addSized_other (by decide), State.get32_addSized_other (by decide)]
  exact congrArg (BitVec.extractLsb' 0 16) hedx

theorem State.iterated_sourceIndex : (s.iterated w p len n).sourceIndex p = s.itemOffset w p n := by
  rw [State.sourceIndex, State.iterated_addressSize, State.itemOffset, State.sourceIndex, State.addSized_addressSize,
    State.getSized_congr (t := s.iterated w p len n) (s := s.movedBy w p n) rfl, State.movedBy,
    State.getSized_addSized_other (by decide)]

theorem State.iterated_repCount (hn : n ≤ (s.repCount p).toNat) :
    (s.iterated w p len n).repCount p = s.repCount p - BitVec.ofNat 32 n := by
  have hother := State.getSized_addSized_other (s := s) (i := .esi) (j := .ecx) (by decide) (s.addressSize p)
    (BitVec.ofNat 32 n * s.incDec w)
  have hle : (BitVec.ofNat 32 n).toNat ≤ (s.getSized (s.addressSize p) .ecx).toNat := (BitVec.toNat_ofNat n _ ▸ Nat.mod_le ..).trans hn
  rw [State.repCount, State.iterated_addressSize, State.getSized_congr (t := s.iterated w p len n) (s := s.movedBy w p n) rfl,
    State.movedBy, State.getSized_addSized_neg (by rwa [hother]), hother]
  rfl

theorem State.iterated_repCount_toNat (hn : n ≤ (s.repCount p).toNat) :
    ((s.iterated w p len n).repCount p).toNat = (s.repCount p).toNat - n := by
  rw [State.iterated_repCount hn]
  bv_omega

/-- Between two iterations the next item is ready. -/
theorem State.iterated_outsReady (hpe : s.pe = false) (hport : s.portDx.toNat + w.bytes ≤ 65536)
    (hoff : (s.itemOffset w p n).toNat + w.bytes ≤ 65536) :
    OutsReady w p (s.iterated w p len n) (s.iterated w p len n) (s.iterated w p len n) (s.itemValue w p n) := by
  have hpe' : (s.iterated w p len n).pe = false := hpe
  refine ⟨State.ioCheck_real hpe' _ _, ?_, by rwa [State.iterated_portDx]⟩
  rw [State.iterated_sourceIndex, State.memRead_real hpe' hoff]
  rfl

theorem State.iterated_afterIteration (hn : n < (s.repCount p).toNat) :
    (s.iterated w p len n).afterIteration (s.iterated w p len n) w p (s.itemValue w p n) len = s.iterated w p len (n + 1) := by
  have hlast : (s.iterated w p len n).repCount p = 1 ↔ n + 1 = (s.repCount p).toNat := by
    rw [← BitVec.toNat_inj, State.iterated_repCount_toNat hn.le]
    change _ = 1 ↔ _
    omega
  have hincDec : (s.iterated w p len n).incDec w = s.incDec w := rfl
  have hregs : (((s.iterated w p len n).addSized (s.addressSize p) .esi (s.incDec w)).addSized (s.addressSize p) .ecx (-1)).regs =
      (s.movedBy w p (n + 1)).regs := by
    rw [← State.movedBy_succ]
    exact State.addSized_regs_congr (State.addSized_regs_congr (s := s.movedBy w p n) (t := s.iterated w p len n) rfl ..) ..
  have hio : (s.iterated w p len n).io ++ [⟨s.portDx, w, (s.itemValue w p n).setWidth 32⟩] = (s.iterated w p len (n + 1)).io := by
    simp only [State.iterated, List.range_succ, List.map_append, List.map_cons, List.map_nil, List.append_assoc]
  simp only [State.afterIteration, State.iterated_addressSize, State.iterated_portDx, hincDec, hlast, State.iterated_eip hn, hregs, hio]
  rfl

theorem repOutsRunSpec_of_repOuts {i : Instr} (hrun : ∀ s, exec i s = s.conclude (s.repOuts w p len)) : RepOutsRunSpec w p len i := by
  intro s hpe hcount hport hadv hoff
  have hstep (n : Nat) (hn : n < (s.repCount p).toNat) : exec i (s.iterated w p len n) = .next (s.iterated w p len (n + 1)) := by
    have hne : (s.iterated w p len n).repCount p ≠ 0 := fun h0 =>
      Nat.sub_ne_zero_of_lt hn ((State.iterated_repCount_toNat hn.le).symm.trans (congrArg BitVec.toNat h0))
    rw [hrun, State.repOuts_of_ready hne (State.iterated_outsReady hpe hport (hoff n hn)) (by rwa [State.canAdvance, State.iterated_eip hn]),
      State.iterated_afterIteration hn, State.conclude_ok]
  refine ⟨s.iterated w p len (s.repCount p).toNat, ?_, rfl, ?_, ?_, if_pos rfl, rfl, .of_fixedPart_eq rfl, fun _ => rfl⟩
  · calc execTimes i (s.repCount p).toNat s
      _ = execTimes i (s.repCount p).toNat (s.iterated w p len 0) := by rw [State.iterated_zero hcount]
      _ = .next (s.iterated w p len (s.repCount p).toNat) := execTimes_of_chain _ hstep
  · rw [State.iterated_repCount le_rfl, BitVec.ofNat_toNat, BitVec.setWidth_eq, BitVec.sub_self]
    rfl
  · rw [State.iterated, State.movedBy, BitVec.ofNat_toNat, BitVec.setWidth_eq]

/-- Settles O53: the states `iterated` form a chain from the state at the start. -/
theorem repOutsRunsToCompletion : Obligations.RepOutsRunsToCompletion := fun _ =>
  ⟨repOutsRunSpec_of_repOuts fun _ => rfl, repOutsRunSpec_of_repOuts fun _ => rfl, repOutsRunSpec_of_repOuts fun _ => rfl⟩

end Sys2Proof.Machine

/-! PROOFS. Exceptions (60_exceptions.md): the state an exception leaves (R181, R182), vectors and error codes (R170), and the delivery of
a real-mode exception to its handler (R183, R184). -/

namespace Sys2Proof.Machine

variable {s t u : State} {e : Exc} {i : Instr}

/-! The default `Deliver` (R170, R182). -/

/-- Settles O56. -/
theorem exceptionEndsTheRun : Obligations.ExceptionEndsTheRun :=
  ⟨fun _ e hd => State.takeException_terminal hd e, fun _ _ hd hl => step_of_fetch_raised hd hl, ⟨rfl, rfl, rfl, rfl, rfl, rfl⟩,
    fun _ _ => ⟨rfl, rfl, rfl⟩⟩

/-! The state recorded with an exception (R181). -/

theorem State.atException_of_ne_pf (h : ∀ code lin, e ≠ .pf code lin) : s.atException e = s := by
  cases e with
  | pf code lin => exact absurd rfl (h code lin)
  | gp0 | ss0 | interrupt13 | interrupt12 => rfl

/-- A run ends in an exception only with the state of R181. -/
theorem State.takeException_eq_exception_state {e' : Exc} (h : s.takeException e' = .fault (.exception e t)) :
    t = s.atException e := by
  unfold State.takeException at h
  split at h
  · split at h <;> exact nomatch h
  · injection h with h
    injection h with he ht
    exact ht.symm.trans (congrArg s.atException he)

/-- An instruction that ends in an exception has recorded the state of R181, whatever it had done before. -/
theorem exec_exception_state (h : exec i s = .fault (.exception e t)) : t = s.atException e := by
  obtain ⟨m, hexec, -⟩ := exec_eq_conclude i s
  rw [hexec] at h
  cases m with
  | ok a u => exact nomatch h
  | raised e' => exact State.takeException_eq_exception_state h
  | refused r => exact nomatch h

/-- Settles O54: the recorded state is `atException`, which writes CR2 and the counter of free values alone. -/
theorem exceptionLeavesState : Obligations.ExceptionLeavesState := by
  intro i s t e h
  obtain rfl := exec_exception_state h
  refine ⟨State.atException_regs s e, State.atException_eip s e, State.atException_eflags s e, State.atException_cr0 s e,
    State.atException_cr3 s e, State.atException_cpl s e, State.atException_segs s e, State.atException_csDefaultSize s e,
    State.atException_tr s e, State.atException_debugRegs s e, State.atException_mem s e, State.atException_io s e,
    State.atException_delivered s e, State.atException_launch s e, fun hne => ?_, fun code lin he => ?_⟩
  · rw [State.atException_of_ne_pf hne]
  · rw [he, State.atException_pf_cr2]

end Sys2Proof.Machine

namespace Sys2Proof.Machine

variable {s t u : State} {e : Exc} {w : Width} {j k : Half} {pas qas : List Dword}

/-! Memory that agrees outside some bytes. -/

theorem SameMemoryBut.trans (h : SameMemoryBut pas s t) (h' : SameMemoryBut qas t u) : SameMemoryBut (pas ++ qas) s u := by
  intro a ha
  rw [List.forall_mem_append] at ha
  exact (h' a ha.2).trans (h a ha.1)

/-- A value none of whose bytes is among those that may differ reads the same. -/
theorem SameMemoryBut.readAt (h : SameMemoryBut pas s t) (hdisj : qas.Disjoint pas) : t.readAt w qas = s.readAt w qas := by
  have hread : qas.map t.readPhys = qas.map s.readPhys := List.map_congr_left fun q hq =>
    h q.toNat fun pa hpa heq => hdisj hq (BitVec.eq_of_toNat_eq heq ▸ hpa)
  rw [State.readAt, State.readAt, hread]

/-! The words on the stack of real-address mode (R183; log 24). -/

/-- SP. -/
def State.sp (s : State) : Half := s.getReg .word .esp

/-- The word of stack that begins `k` below SP, modulo 2^16. -/
def State.stackWord (s : State) (k : Half) : List Dword := addrRange (s.segs.ss.base + (s.sp - k).setWidth 32) 2

/-- Words at offsets at least 2 apart, either way round modulo 2^16, have no byte in common. -/
theorem addrRange_two_disjoint (base : Dword) {x y : Half} (hlo : 2 ≤ (x - y).toNat) (hhi : (x - y).toNat ≤ 65534) :
    (addrRange (base + x.setWidth 32) 2).Disjoint (addrRange (base + y.setWidth 32) 2) := by
  intro a hx hy
  simp only [addrRange, List.mem_map, List.mem_range] at hx hy
  obtain ⟨m, hm, rfl⟩ := hx
  obtain ⟨n, hn, heq⟩ := hy
  rw [BitVec.add_assoc, BitVec.add_assoc, BitVec.add_right_inj] at heq
  bv_omega

theorem State.stackWord_disjoint (hlo : 2 ≤ (k - j).toNat) (hhi : (k - j).toNat ≤ 65534) :
    (s.stackWord j).Disjoint (s.stackWord k) := by
  have hdiff : s.sp - j - (s.sp - k) = k - j := sub_sub_sub_cancel_left j k s.sp
  exact addrRange_two_disjoint _ (by rwa [hdiff]) (by rwa [hdiff])

/-! One push (R183). -/

/-- The state after a push: the word below SP written, and SP at it. -/
def State.afterPush (s : State) (v : Half) : State := (s.writeAt (s.stackWord 2) (leBytes v 2)).setReg .word .esp (s.sp - 2)

theorem State.afterPush_mem (s : State) (v : Half) : (s.afterPush v).mem = (s.writeAt (s.stackWord 2) (leBytes v 2)).mem := rfl

theorem State.afterPush_readAt (s : State) (v : Half) : (s.afterPush v).readAt .word (s.stackWord 2) = v := by
  rw [State.readAt_congr (s.afterPush_mem v)]
  exact State.readAt_writeAt_leBytes (w := .word) (addrRange_nodup _ (by decide)) (addrRange_length _ 2) v

theorem State.afterPush_sameMemoryBut (s : State) (v : Half) : SameMemoryBut (s.stackWord 2) s (s.afterPush v) :=
  State.writeAt_sameMemoryBut s (s.stackWord 2) (leBytes v 2)

/-- A push stores unless SP is 1: then the word would pass offset FFFFh (R47). -/
theorem State.pushReal_real (hpe : s.pe = false) (v : Half) :
    s.pushReal v = if s.sp = 1 then .raised (s.limitExc .ss) else .ok () (s.afterPush v) := by
  have hmode : s.mode ≠ .prot := by rw [State.mode_of_pe_false hpe]; decide
  change ((s.memWrite .ss ((s.sp - 2).setWidth 32) .word v).andThen fun _ s1 => .ok () (s1.setReg .word .esp (s.sp - 2))) = _
  by_cases hsp : s.sp = 1
  · have hseg : s.segCheck .ss ((s.sp - 2).setWidth 32) Width.word.bytes .write = .error (s.limitExc .ss) := by
      rw [State.segCheck_of_ne_prot hmode, State.segCheckReal_of_lt (by rw [hsp]; decide)]
    rw [State.memWrite, State.openOperand, hseg, if_pos hsp, Access.check_error, Access.andThen_raised, Access.andThen_raised,
      Access.andThen_raised]
  · have hroom : ((s.sp - 2).setWidth 32 : Dword).toNat + 2 ≤ 65536 := by bv_omega
    rw [State.memWrite, State.openOperand_real hpe hroom, if_neg hsp]
    rfl

/-! Several pushes, seen from the state before the first. -/

/-- `t` is `s` with SP lower by `k` modulo 2^16, and with memory of its own. -/
def State.SpLowered (s : State) (k : Half) (t : State) : Prop :=
  t = { s with regs := (s.setReg .word .esp (s.sp - k)).regs, mem := t.mem }

theorem State.SpLowered.refl (s : State) : s.SpLowered 0 s := by
  have hregs : (s.setReg .word .esp (s.sp - 0)).regs = s.regs :=
    congrArg State.regs ((congrArg (s.setReg .word .esp) (BitVec.sub_zero s.sp)).trans (State.setReg_getReg s .word .esp))
  rw [State.SpLowered, hregs]

theorem State.SpLowered.regs (h : s.SpLowered k t) : t.regs = (s.setReg .word .esp (s.sp - k)).regs := by rw [h]

theorem State.SpLowered.sp (h : s.SpLowered k t) : t.sp = s.sp - k :=
  (State.getReg_congr h.regs ..).trans (State.getReg_setReg_word ..)

theorem State.SpLowered.segs (h : s.SpLowered k t) : t.segs = s.segs := by rw [h]

theorem State.SpLowered.pe (h : s.SpLowered k t) : t.pe = s.pe := by rw [h]; rfl

theorem State.SpLowered.limitExc (h : s.SpLowered k t) : t.limitExc .ss = s.limitExc .ss := by rw [h]; rfl

theorem State.SpLowered.stackWord (h : s.SpLowered k t) : t.stackWord j = s.stackWord (k + j) := by
  rw [State.stackWord, State.stackWord, h.sp, h.segs, BitVec.sub_sub]

theorem State.setReg_word_setReg_same (s : State) (i : Reg) (a b : Half) :
    (s.setReg .word i a).setReg .word i b = s.setReg .word i b := by
  simp only [State.setReg, Regs.set16, Regs.get32_set32_same, Regs.set32_set32_same, BitVec.extractLsb'_append_eq_left]

theorem State.SpLowered.afterPush (h : s.SpLowered k t) (v : Half) : s.SpLowered (k + 2) (t.afterPush v) := by
  have hregs : (t.afterPush v).regs = (s.setReg .word .esp (s.sp - (k + 2))).regs := by
    calc (t.afterPush v).regs
        = ((s.setReg .word .esp (s.sp - k)).setReg .word .esp (t.sp - 2)).regs :=
          State.setReg_regs_congr ((State.writeAt_regs ..).trans h.regs) ..
      _ = (s.setReg .word .esp (t.sp - 2)).regs := by rw [State.setReg_word_setReg_same]
      _ = (s.setReg .word .esp (s.sp - (k + 2))).regs := by rw [h.sp, BitVec.sub_sub]
  rw [State.SpLowered, ← hregs, State.afterPush, State.setReg_eq_with_regs, State.writeAt_eq_mem, h]

/-- What the push stores, and that it stores nothing else. -/
theorem State.SpLowered.afterPush_stack (h : s.SpLowered k t) (v : Half) :
    (t.afterPush v).readAt .word (s.stackWord (k + 2)) = v ∧ SameMemoryBut (s.stackWord (k + 2)) t (t.afterPush v) := by
  rw [← h.stackWord]
  exact ⟨t.afterPush_readAt v, t.afterPush_sameMemoryBut v⟩

/-- The push after the first ones succeeds unless they left SP at 1. -/
theorem State.SpLowered.pushReal (h : s.SpLowered k t) (hpe : s.pe = false) (v : Half) :
    t.pushReal v = if s.sp - k = 1 then .raised (s.limitExc .ss) else .ok () (t.afterPush v) := by
  rw [State.pushReal_real (h.pe.trans hpe), h.sp, h.limitExc]

/-! Entering the handler (R183). -/

/-- The state with FLAGS, CS and IP pushed. -/
def State.framePushed (s : State) : State :=
  ((s.afterPush s.eflags.flags16).afterPush s.segs.cs.selector).afterPush (s.eip.setWidth 16)

theorem State.framePushed_spLowered (s : State) : s.SpLowered 6 s.framePushed :=
  (((State.SpLowered.refl s).afterPush _).afterPush _).afterPush _

/-- The words of the frame stand below one another, and every other byte is as before. -/
theorem State.framePushed_stack (s : State) :
    s.framePushed.readAt .word (s.stackWord 2) = s.eflags.flags16 ∧
    s.framePushed.readAt .word (s.stackWord 4) = s.segs.cs.selector ∧
    s.framePushed.readAt .word (s.stackWord 6) = s.eip.setWidth 16 ∧
    SameMemoryBut (s.stackWord 2 ++ s.stackWord 4 ++ s.stackWord 6) s s.framePushed := by
  have h0 := State.SpLowered.refl s
  have h1 := h0.afterPush s.eflags.flags16
  have h2 := h1.afterPush s.segs.cs.selector
  obtain ⟨hflags, hmem1⟩ := h0.afterPush_stack s.eflags.flags16
  obtain ⟨hcs, hmem2⟩ := h1.afterPush_stack s.segs.cs.selector
  obtain ⟨hip, hmem3⟩ := h2.afterPush_stack (s.eip.setWidth 16)
  have hdisj24 : (s.stackWord 2).Disjoint (s.stackWord 4) := State.stackWord_disjoint (by decide) (by decide)
  have hdisj26 : (s.stackWord 2).Disjoint (s.stackWord 6) := State.stackWord_disjoint (by decide) (by decide)
  have hdisj46 : (s.stackWord 4).Disjoint (s.stackWord 6) := State.stackWord_disjoint (by decide) (by decide)
  exact ⟨(hmem3.readAt hdisj26).trans ((hmem2.readAt hdisj24).trans hflags), (hmem3.readAt hdisj46).trans hcs, hip,
    (hmem1.trans hmem2).trans hmem3⟩

/-- The state with IF and TF clear and with EIP and CS of a vector's entry in the table at physical 0. -/
def State.loadVector (s : State) (vector : Nat) : State :=
  let selector : Half := s.readAt .word (addrRange (BitVec.ofNat 32 (4 * vector + 2)) 2)
  { s with
    eip := (s.readAt .word (addrRange (BitVec.ofNat 32 (4 * vector)) 2)).setWidth 32
    eflags := { s.eflags with IF := false, TF := false }
    segs := { s.segs with cs := { s.segs.cs with selector := selector, base := selector.setWidth 32 <<< 4 } } }

theorem addrRange_two (n : Nat) : addrRange (BitVec.ofNat 32 n) 2 = [BitVec.ofNat 32 n, BitVec.ofNat 32 (n + 1)] := by
  simp [addrRange, List.range_succ, BitVec.ofNat_add]

/-- Delivery in real-address mode: the three pushes, then the vector, unless SP is 1, 3 or 5. -/
theorem State.enterReal_real (hpe : s.pe = false) (vector : Nat) : s.enterReal vector =
    if s.sp.toNat ∈ [1, 3, 5] then .raised (s.limitExc .ss) else .ok () (s.framePushed.loadVector vector) := by
  have h1 : s.SpLowered 2 (s.afterPush s.eflags.flags16) := (State.SpLowered.refl s).afterPush _
  have h2 : s.SpLowered 4 ((s.afterPush s.eflags.flags16).afterPush s.segs.cs.selector) := h1.afterPush _
  have heip : ((s.afterPush s.eflags.flags16).afterPush s.segs.cs.selector).eip = s.eip := by rw [h2]
  rw [State.enterReal, State.pushReal_real hpe]
  by_cases hsp1 : s.sp = 1
  · rw [if_pos hsp1, Access.andThen_raised, if_pos (by rw [hsp1]; decide)]
  rw [if_neg hsp1, Access.andThen_ok, h1.segs, h1.pushReal hpe]
  by_cases hsp3 : s.sp - 2 = 1
  · rw [if_pos hsp3, Access.andThen_raised, if_pos (by rw [show s.sp = 3 by bv_omega]; decide)]
  rw [if_neg hsp3, Access.andThen_ok, heip, h2.pushReal hpe]
  by_cases hsp5 : s.sp - 4 = 1
  · rw [if_pos hsp5, Access.andThen_raised, if_pos (by rw [show s.sp = 5 by bv_omega]; decide)]
  have hroom : s.sp.toNat ∉ [1, 3, 5] := fun hmem => by
    simp only [List.mem_cons, List.not_mem_nil, or_false] at hmem
    bv_omega
  rw [if_neg hsp5, Access.andThen_ok, if_neg hroom, State.loadVector, addrRange_two, addrRange_two]
  rfl

theorem setWidth_shiftLeft_four_toNat (x : Half) : ((x.setWidth 32 : Dword) <<< 4).toNat = 16 * x.toNat := by
  bv_omega

/-- A real-mode limit violation through SS (R174; C10). -/
theorem State.limitExc_ss_real (hmode : s.mode = .real) :
    s.limitExc .ss = if s.launch.realSsVector = .v12 then .interrupt12 else .interrupt13 := by
  simp [State.limitExc, hmode]

/-- Taking an exception other than #PF in real-address mode under `Deliver.vectorTable`. -/
theorem State.takeException_vectorTable (hd : s.launch.deliver = .vectorTable) (hmode : s.mode = .real)
    (hne : ∀ code lin, e ≠ .pf code lin) : s.takeException e =
      if s.sp.toNat ∈ [1, 3, 5] then .fault (.deliveryFailed e (s.limitExc .ss) s)
      else .next ((s.framePushed.loadVector e.vector).recordDelivery e) := by
  unfold State.takeException
  rw [hd, hmode, State.atException_of_ne_pf hne, State.enterReal_real (State.pe_of_real hmode)]
  by_cases hsp : s.sp.toNat ∈ [1, 3, 5]
  · simp only [if_pos hsp]
  · simp only [if_neg hsp]

theorem State.loadVector_get {g : SegReg} (s : State) (vector : Nat) (hg : g ≠ .cs) :
    (s.loadVector vector).segs.get g = s.segs.get g := by
  cases g with
  | cs => exact absurd rfl hg
  | es | ss | ds | fs | gs => rfl

/-- Settles O58: the state entered is `framePushed` with the vector loaded. -/
theorem realModeDeliveryEntersHandler : Obligations.RealModeDeliveryEntersHandler := by
  intro s e hd hmode hne
  have htake := State.takeException_vectorTable hd hmode hne
  obtain ⟨hflags, hcs, hip, hmem⟩ := s.framePushed_stack
  have h := s.framePushed_spLowered
  refine ⟨fun hsp => ?_, fun hsp => ⟨_, htake.trans (if_neg hsp), h.regs, ?_, hflags, hcs, hip, rfl, rfl,
    setWidth_shiftLeft_four_toNat _, ?_, fun g hg => (State.loadVector_get _ _ hg).trans (congrArg (·.get g) h.segs),
    ?_, ?_, ?_, ?_, ?_, ?_, ?_, ?_, ?_, ?_, hmem⟩⟩
  · rw [← State.limitExc_ss_real hmode]
    exact htake.trans (if_pos hsp)
  all_goals
    rw [h]
    rfl

end Sys2Proof.Machine

/-! PROOFS. The final state of a run (R203): a run advances by steps that begin inside the program and deliver no exception, and its
final state is the first state at the end of the program that such a step reaches. -/

namespace Sys2Proof.Machine

variable {s t u : State} {n : Nat}

/-- EIP inside the program is not at its end, as the range does not hold its end address. -/
theorem State.runOver_eq_false_of_inProgram (h : s.inProgram = true) : s.runOver = false := by
  unfold State.inProgram at h
  unfold State.runOver
  cases hprogram : s.launch.program with
  | none => rfl
  | some pr =>
    simp only [hprogram, Bool.and_eq_true, decide_eq_true_eq] at h
    exact decide_eq_false (BitVec.ne_of_lt h.2)

theorem State.inProgram_of_runOver (h : s.runOver = true) : s.inProgram = false :=
  Bool.eq_false_of_not_eq_true fun hin => Bool.false_ne_true ((State.runOver_eq_false_of_inProgram hin).symm.trans h)

theorem State.inProgram_of_no_program (h : s.launch.program = none) : s.inProgram = false := by
  simp only [State.inProgram, h]

/-- The step of `s` carries a run on to `t`: it begins inside the program and completes there with no exception delivered (R203). -/
structure State.RunStep (s t : State) : Prop where
  inProgram : s.inProgram = true
  step_eq : step s = .next t
  delivered_eq : t.delivered = s.delivered

theorem finalState_succ_of_runStep (h : s.RunStep t) :
    finalState (n + 1) s = if t.runOver then some t else finalState n t := by
  simp only [finalState, h.inProgram, h.step_eq, h.delivered_eq, ne_eq, not_true_eq_false, if_true, if_false]

theorem finalState_succ_of_runStep_over (h : s.RunStep t) (hover : t.runOver = true) : finalState (n + 1) s = some t := by
  rw [finalState_succ_of_runStep h, if_pos hover]

theorem finalState_succ_of_runStep_not_over (h : s.RunStep t) (hover : t.runOver = false) :
    finalState (n + 1) s = finalState n t := by
  rw [finalState_succ_of_runStep h, hover, if_neg Bool.false_ne_true]

/-- A run that its first step does not carry on has no final state. -/
theorem finalState_eq_none (h : ∀ t, ¬ s.RunStep t) : finalState n s = none := by
  cases n with
  | zero => rfl
  | succ n =>
    unfold finalState
    by_cases hin : s.inProgram = true
    · rw [if_pos hin]
      cases hstep : step s with
      | next t => exact if_pos fun hdel => h t ⟨hin, hstep, hdel⟩
      | fault f => rfl
      | refused r => rfl
    · exact if_neg hin

/-- How a run gets its final state: in its first step, or in a later one after a step that does not reach the end. -/
theorem finalState_succ_eq_some (h : finalState (n + 1) s = some t) :
    (s.RunStep t ∧ t.runOver = true) ∨ ∃ u, s.RunStep u ∧ u.runOver = false ∧ finalState n u = some t := by
  by_cases hrun : ∃ u, s.RunStep u
  · obtain ⟨u, hu⟩ := hrun
    cases hover : u.runOver with
    | true =>
      obtain rfl : u = t := Option.some.inj ((finalState_succ_of_runStep_over hu hover).symm.trans h)
      exact .inl ⟨hu, hover⟩
    | false => exact .inr ⟨u, hu, hover, (finalState_succ_of_runStep_not_over hu hover).symm.trans h⟩
  · exact nomatch (finalState_eq_none (not_exists.mp hrun)).symm.trans h

theorem finalState_inProgram (h : finalState n s = some t) : s.inProgram = true := by
  by_contra hin
  exact nomatch (finalState_eq_none fun _ hrun => hin hrun.inProgram).symm.trans h

theorem finalState_runOver (h : finalState n s = some t) : t.runOver = true := by
  induction n generalizing s with
  | zero => exact nomatch h
  | succ n ih =>
    rcases finalState_succ_eq_some h with ⟨-, hover⟩ | ⟨u, -, -, hrest⟩
    · exact hover
    · exact ih hrest

theorem finalState_delivered (h : finalState n s = some t) : t.delivered = s.delivered := by
  induction n generalizing s with
  | zero => exact nomatch h
  | succ n ih =>
    rcases finalState_succ_eq_some h with ⟨hlast, -⟩ | ⟨u, hu, -, hrest⟩
    · exact hlast.delivered_eq
    · exact (ih hrest).trans hu.delivered_eq

/-- A longer run has the same final state. -/
theorem finalState_add (h : finalState n s = some t) (m : Nat) : finalState (n + m) s = some t := by
  induction n generalizing s with
  | zero => exact nomatch h
  | succ n ih =>
    rw [Nat.succ_add]
    rcases finalState_succ_eq_some h with ⟨hlast, hover⟩ | ⟨u, hu, hnot, hrest⟩
    · exact finalState_succ_of_runStep_over hlast hover
    · exact (finalState_succ_of_runStep_not_over hu hnot).trans (ih hrest)

/-- Settles O60: a run has no final state unless its first step is a `RunStep`; then it ends there or goes on from the next state. -/
theorem finalStateOnlyAtProgramEnd : Obligations.FinalStateOnlyAtProgramEnd := by
  refine ⟨fun n s t h => ?_, fun n s h => ?_, fun n s t hstep hdel => ?_, fun n s f hstep => ?_, fun n s r hstep => ?_,
    fun n s t hin hstep hdel hover => finalState_succ_of_runStep_not_over ⟨hin, hstep, hdel⟩ hover,
    fun n s t hin hstep hdel hover => finalState_succ_of_runStep_over ⟨hin, hstep, hdel⟩ hover⟩
  · have hin := finalState_inProgram h
    exact ⟨hin, State.runOver_eq_false_of_inProgram hin, finalState_runOver h, finalState_delivered h, finalState_add h⟩
  all_goals refine finalState_eq_none fun u hu => ?_
  · have hout : s.inProgram = false := by
      rcases h with hout | hover | hnone
      · exact hout
      · exact State.inProgram_of_runOver hover
      · exact State.inProgram_of_no_program hnone
    exact Bool.false_ne_true (hout.symm.trans hu.inProgram)
  · obtain rfl : t = u := by simpa [hstep] using hu.step_eq
    exact hdel hu.delivered_eq
  · exact nomatch hstep.symm.trans hu.step_eq
  · exact nomatch hstep.symm.trans hu.step_eq

end Sys2Proof.Machine

/-! PROOFS. Physical memory stays in canonical form (R32; log 1): every operation that answers keeps it, the delivery of an exception
included, and so does every step. -/

namespace Sys2Proof.Machine

variable {α : Type} {s t : State}

/-- The physical memory of the state is in canonical form. -/
def State.Canonical (s : State) : Prop := Memory.wf s.mem = true

/-- An update of fields other than memory. -/
theorem State.Canonical.update (h : s.Canonical) (hmem : t.mem = s.mem) : t.Canonical := (congrArg Memory.wf hmem).trans h

/-! The shared operations. -/

theorem Access.MarksOnly.ensures_canonical {m : Access α} (hm : m.MarksOnly s) (h : s.Canonical) : m.Ensures State.Canonical :=
  fun a t ht => (hm a t ht).2 h

theorem State.advance_canonical (h : s.Canonical) (len : Nat) : (s.advance len).Ensures State.Canonical := by
  intro _ t ht
  obtain ⟨-, rfl⟩ := State.advance_eq_ok.mp ht
  exact h.update rfl

theorem State.ioWrite_canonical (h : s.Canonical) (port : Half) (w : Width) (v : BitVec w.bits) :
    (s.ioWrite port w v).Ensures State.Canonical := by
  intro _ t ht
  obtain ⟨-, rfl⟩ := State.ioWrite_eq_ok.mp ht
  exact h.update rfl

theorem State.memWrite_canonical (h : s.Canonical) (seg : SegReg) (off : Dword) (w : Width) (v : BitVec w.bits) :
    (s.memWrite seg off w v).Ensures State.Canonical :=
  ((State.openOperand_marks s seg off w .write).ensures_canonical h).andThen fun pas _ ht => .ok (State.wf_writeAt pas _ ht)

theorem State.memUpdate_canonical (h : s.Canonical) (seg : SegReg) (off : Dword) (w : Width) (len : Nat)
    (f : BitVec w.bits → BitVec w.bits) : (s.memUpdate seg off w len f).Ensures State.Canonical := by
  refine ((State.openOperand_marks s seg off w .write).ensures_canonical h).andThen fun pas t ht => ?_
  cases t.storeRefusal len pas with
  | some r => exact .refused r _
  | none => exact .ok (State.wf_writeAt pas _ ht)

/-! Instructions, by their shape (R106, R134, R155, R164). -/

theorem State.finishOr_canonical {k : Nat} (h : s.Canonical) (r : BitVec k) (len : Nat) :
    (s.finishOr r len).Ensures State.Canonical :=
  State.advance_canonical (h.update (State.setLogicFlags_mem s r)) len

theorem State.orToReg_canonical (h : s.Canonical) (w : Width) (dst : Reg) (src : BitVec w.bits) (len : Nat) :
    (s.orToReg w dst src len).Ensures State.Canonical :=
  State.finishOr_canonical (h.update (State.setReg_mem ..)) _ len

theorem State.orToRm_canonical (h : s.Canonical) (w : Width) (p : Prefixes) (rm : RM) (src : BitVec w.bits) (len : Nat) :
    (s.orToRm w p rm src len).Ensures State.Canonical := by
  cases rm with
  | reg d => exact State.orToReg_canonical h w d src len
  | mem a => exact (State.memUpdate_canonical h _ _ w len _).andThen fun r _ ht => State.finishOr_canonical ht r len

theorem State.orFromRm_canonical (h : s.Canonical) (w : Width) (p : Prefixes) (dst : Reg) (rm : RM) (len : Nat) :
    (s.orFromRm w p dst rm len).Ensures State.Canonical := by
  cases rm with
  | reg r => exact State.orToReg_canonical h w dst _ len
  | mem a =>
    have hread := (State.memRead_marks s (p.segFor a.defaultSeg) (s.offsetOf a) w).ensures_canonical h
    exact hread.andThen fun v _ ht => State.orToReg_canonical ht w dst v len

theorem State.outTo_canonical (h : s.Canonical) (port : Half) (w : Width) (v : BitVec w.bits) (len : Nat) :
    (s.outTo port w v len).Ensures State.Canonical :=
  ((State.ioCheck_marks s port w.bytes).ensures_canonical h).andThen fun _ _ ht =>
    (State.ioWrite_canonical ht port w v).andThen fun _ _ hu => State.advance_canonical hu len

theorem State.outsItem_canonical (h : s.Canonical) (w : Width) (p : Prefixes) : (s.outsItem w p).Ensures State.Canonical :=
  ((State.ioCheck_marks s s.portDx w.bytes).ensures_canonical h).andThen fun _ t ht =>
    ((State.memRead_marks t _ _ w).ensures_canonical ht).andThen fun v _ hu =>
      (State.ioWrite_canonical hu s.portDx w v).andThen fun _ _ hx => .ok (hx.update (State.addSized_mem ..))

theorem State.outs_canonical (h : s.Canonical) (w : Width) (p : Prefixes) (len : Nat) :
    (s.outs w p len).Ensures State.Canonical :=
  (State.outsItem_canonical h w p).andThen fun _ _ ht => State.advance_canonical ht len

theorem State.repOuts_canonical (h : s.Canonical) (w : Width) (p : Prefixes) (len : Nat) :
    (s.repOuts w p len).Ensures State.Canonical := by
  unfold State.repOuts
  split
  · exact State.advance_canonical h len
  · refine (State.outsItem_canonical h w p).andThen fun _ t ht => ?_
    have hcount : (t.addSized (s.addressSize p) .ecx (-1)).Canonical := ht.update (State.addSized_mem ..)
    dsimp only
    split
    · exact State.advance_canonical hcount len
    · exact .ok hcount

/-! Delivery of a real-mode exception (R183). -/

theorem State.pushReal_canonical (h : s.Canonical) (v : Half) : (s.pushReal v).Ensures State.Canonical :=
  (State.memWrite_canonical h _ _ .word v).andThen fun _ _ ht => .ok (ht.update (State.setReg_mem ..))

theorem State.enterReal_canonical (h : s.Canonical) (vector : Nat) : (s.enterReal vector).Ensures State.Canonical :=
  (State.pushReal_canonical h _).andThen fun _ _ h1 =>
    (State.pushReal_canonical h1 _).andThen fun _ _ h2 =>
      (State.pushReal_canonical h2 _).andThen fun _ _ h3 => .ok (h3.update rfl)

theorem State.takeException_canonical {e : Exc} (h : s.Canonical) (htake : s.takeException e = .next t) : t.Canonical := by
  obtain ⟨-, -, u, hu, rfl⟩ := State.takeException_eq_next htake
  have hat : (s.atException e).Canonical := h.update (State.atException_mem s e)
  exact (State.enterReal_canonical hat e.vector () u hu).update (State.recordDelivery_mem u e)

/-! Instructions and steps. -/

theorem State.conclude_canonical {m : Access Unit} (h : s.Canonical) (hm : m.Ensures State.Canonical)
    (hnext : s.conclude m = .next t) : t.Canonical := by
  rcases State.conclude_eq_next.mp hnext with hok | ⟨e, -, htake⟩
  · exact hm () t hok
  · exact State.takeException_canonical h htake

theorem exec_canonical {i : Instr} (h : s.Canonical) (hnext : exec i s = .next t) : t.Canonical := by
  cases i with
  | orAlImm8 p imm | orAxImm16 p imm | orEaxImm32 p imm =>
    exact State.conclude_canonical h (State.orToReg_canonical h _ _ _ _) hnext
  | orRm8Imm8 p rm | orRm16Imm16 p rm | orRm32Imm32 p rm | orRm16Imm8 p rm | orRm32Imm8 p rm | orRm8R8 p rm | orRm16R16 p rm
  | orRm32R32 p rm =>
    exact State.conclude_canonical h (State.orToRm_canonical h _ p rm _ _) hnext
  | orR8Rm8 p r rm | orR16Rm16 p r rm | orR32Rm32 p r rm =>
    exact State.conclude_canonical h (State.orFromRm_canonical h _ p r rm _) hnext
  | outImm8Al p | outImm8Ax p | outImm8Eax p | outDxAl p | outDxAx p | outDxEax p =>
    exact State.conclude_canonical h (State.outTo_canonical h _ _ _ _) hnext
  | outsDxRm8 p | outsDxRm16 p | outsDxRm32 p | outsb p | outsw p | outsd p =>
    exact State.conclude_canonical h (State.outs_canonical h _ p _) hnext
  | repOutsb p | repOutsw p | repOutsd p =>
    exact State.conclude_canonical h (State.repOuts_canonical h _ p _) hnext

/-- A step answers a next state by the instruction it fetched, or by delivering an exception of the fetch (R7, R178). -/
theorem step_next_of_exec_or_takeException (h : step s = .next t) :
    (∃ i u, s.fetch = .ok i u ∧ exec i u = .next t) ∨ ∃ e, s.fetch = .raised e ∧ s.takeException e = .next t := by
  unfold step at h
  split at h
  · exact nomatch h
  split at h
  · exact .inl ⟨_, _, ‹_›, h⟩
  · exact .inr ⟨_, ‹_›, h⟩
  · exact nomatch h

/-- Settles O9: the fetch sets A and D bits at most, and what follows it keeps the canonical form. -/
theorem stepKeepsMemoryCanonical : Obligations.StepKeepsMemoryCanonical := by
  intro s t h hstep
  rcases step_next_of_exec_or_takeException hstep with ⟨i, u, hfetch, hexec⟩ | ⟨e, -, htake⟩
  · exact exec_canonical ((State.fetch_marks s).ensures_canonical h i u hfetch) hexec
  · exact State.takeException_canonical h htake

/-- Settles O8: memory after reset is empty, and the tests of `launchRefusal` find nothing in the closed state. -/
theorem resetMemoryCanonical : Obligations.ResetMemoryCanonical := ⟨rfl, by decide⟩

end Sys2Proof.Machine
